-- ==== Sys2Proof/Word.lean ====
section
/-! DEFINITION. The bit-vector types of the machine (00_scope.md R7: bitstrings, bit 0 the least significant). -/

namespace Sys2Proof

/-- `bits(32)`: a register, an address, a result, an A32 instruction. -/
abbrev Word := BitVec 32
/-- A T32 halfword (30_encoding.md R70). -/
abbrev Half := BitVec 16
/-- One byte of memory. -/
abbrev Byte := BitVec 8
/-- A register number 0 to 15 as an encoding's 4-bit field holds it; 13 is the SP and 15 the PC
(10_state.md R20, R21). -/
abbrev RegNum := BitVec 4

end Sys2Proof
end

