-- ==== Sys2Proof/Config.lean ====
section
/-! DEFINITION. What an implementation fixes (00_scope.md R6) and the free values (93_implementation_defined.md).
Every constant here is opaque: a statement about the model holds whatever its value. -/

namespace Sys2Proof.Config

/-- `P_HAS_HYP`: is Hyp mode implemented (R6, U20). Log 29. -/
opaque hasHyp : Bool
/-- Is Monitor mode implemented (60_exceptions.md R195 "a mode that is not implemented"). Log 14. -/
opaque hasMonitor : Bool
/-- Does EL3 use AArch32 (10_state.md R32): the Exception level of the Secure modes. Log 14. -/
opaque el3UsesAArch32 : Bool
/-- Which optional PSTATE fields exist (41_helper_functions.md R162). Log 23. -/
opaque hasSsbs : Bool
opaque hasPan : Bool
opaque hasDit : Bool

/-- `P_CU_ALUEXCRET` (R6, R160): what ADDS PC does in User and System mode. -/
inductive CuAluExcRet where
  /-- the instruction is UNDEFINED -/
  | undef
  /-- the instruction executes as a NOP -/
  | nop
  deriving DecidableEq, Repr, Inhabited

/-- The implementation's `P_CU_ALUEXCRET`. Log 10. -/
opaque cuAluExcRet : CuAluExcRet

/-- `P_A32_FORCEALIGNPC` (R6, R157): a branch in A32 state to an address with bits[1:0] == '10' clears
bit 1 of it (true), or leaves the pc misaligned (false). Log 17. -/
opaque a32ForceAlignPc : Bool

/-- On an illegal return PSTATE.T is copied from SPSR bit 5 (true) or set to 0 (false): R162. Log 15. -/
opaque illegalReturnCopiesT : Bool

/-- The words the spec calls UNPREDICTABLE as instructions: 30_encoding.md R80, R82, R85 and
93_implementation_defined.md U3 to U7, U10. -/
inductive UnpredCase where
  /-- U3: T2 with n == 15 and m == 15 -/
  | t2PcPc
  /-- U4: T2 with d == 15 inside an IT block and not its last instruction -/
  | t2BranchInIT
  /-- U5: T3 ADD with Rd == 1111 -/
  | t3DestPc
  /-- U6: T3 with Rn == 1111 -/
  | t3FirstPc
  /-- U7: T3 with Rm == 1111 -/
  | t3SecondPc
  /-- U10: T3 with bit 15 of the second halfword set -/
  | t3Sbz
  deriving DecidableEq, Repr

/-- What such a word may do: the behaviours 93_implementation_defined.md lists for it, and `unlisted`
for one it does not list ("not complete"). -/
inductive UnpredChoice where
  /-- the instruction is UNDEFINED -/
  | undefined
  /-- the instruction executes as a NOP -/
  | nop
  /-- the first way of executing that the row of 93 names -/
  | execute
  /-- the second way of executing that the row of 93 names -/
  | variant
  /-- a behaviour that the row of 93 does not name: the model stops (D7, D10) -/
  | unlisted
  deriving DecidableEq, Repr, Inhabited

/-- The behaviour of an UNPREDICTABLE word, free at every execution, whether or not its condition passes
(60_exceptions.md R193, 90_conflicts.md C7); to skip a word whose condition fails (U8) is its `nop`. Log 19. -/
opaque unpred : UnpredCase → Nat → UnpredChoice

/-- A free 32-bit value (an UNKNOWN register, result or target). Log 26. -/
opaque freeWord : Nat → Word
/-- A free IT state (U4: the IT state of the following instructions becomes UNKNOWN). Log 26. -/
opaque freeIT : Nat → BitVec 8
/-- The bits of HSR other than EC after an exception taken to Hyp mode (R194 names EC only). Log 12. -/
opaque freeHsrRest : Nat → BitVec 26
/-- HSR.EC of an Illegal Execution state exception taken to Hyp mode, which the spec does not give. Log 16. -/
opaque freeHsrEC : Nat → BitVec 6

end Sys2Proof.Config
end

