-- ==== Sys2Proof/Syntax.lean ====
section
/-! DEFINITION. The instructions: one constructor per row of spec/opcode_table.json, with the fields of the
row's encoding (30_encoding.md). -/

namespace Sys2Proof

/-- ADD, ADDS (register), one constructor for each row of the opcode table. `sbz` is bit 15 of a T3 word's
second halfword (R82), kept so that no bit of a word is lost. -/
inductive Instr where
  /-- A1 ADD, rotate right with extend: 40_add_adds_register.md R120 -/
  | addRrxA1 (cond rn rd rm : RegNum)
  /-- A1 ADD, shift or rotate by value: R121 -/
  | addShiftA1 (cond rn rd : RegNum) (imm5 : BitVec 5) (stype : BitVec 2) (rm : RegNum)
  /-- A1 ADDS, rotate right with extend: R122 -/
  | addsRrxA1 (cond rn rd rm : RegNum)
  /-- A1 ADDS, shift or rotate by value: R123 -/
  | addsShiftA1 (cond rn rd : RegNum) (imm5 : BitVec 5) (stype : BitVec 2) (rm : RegNum)
  /-- T1 outside an IT block, ADDS: R124 -/
  | addsT1 (rm rn rd : BitVec 3)
  /-- T1 inside an IT block, ADD: R125 -/
  | addT1 (rm rn rd : BitVec 3)
  /-- T2 ADD: R126 -/
  | addT2 (dn : BitVec 1) (rm : RegNum) (rdn : BitVec 3)
  /-- T3 ADD, rotate right with extend: R127 -/
  | addRrxT3 (sbz : BitVec 1) (rn rd rm : RegNum)
  /-- T3 ADD, shift or rotate by value: R128 -/
  | addShiftT3 (sbz : BitVec 1) (rn : RegNum) (imm3 : BitVec 3) (rd : RegNum) (imm2 stype : BitVec 2) (rm : RegNum)
  /-- T3 ADDS, rotate right with extend: R129 -/
  | addsRrxT3 (sbz : BitVec 1) (rn rd rm : RegNum)
  /-- T3 ADDS, shift or rotate by value: R130 -/
  | addsShiftT3 (sbz : BitVec 1) (rn : RegNum) (imm3 : BitVec 3) (rd : RegNum) (imm2 stype : BitVec 2) (rm : RegNum)
  deriving DecidableEq, Repr

/-- `DN:Rdn`, the register number of a T2 word (30_encoding.md R79). -/
def regDnRdn (dn : BitVec 1) (rdn : BitVec 3) : RegNum := dn ++ rdn

/-- `imm3:imm2`, the amount field of a T3 word (R83, R84). -/
def amountField (imm3 : BitVec 3) (imm2 : BitVec 2) : BitVec 5 := imm3 ++ imm2

end Sys2Proof
end

