-- ==== Sys2Proof/WellFormed.lean ====
section
/-! DEFINITION. Which terms are instructions: the exclusions of spec/opcode_table.json (30_encoding.md R72,
R73, R75, R79, R83, R84). A word the spec calls UNPREDICTABLE is still this instruction's encoding
(90_conflicts.md C6), so it is well-formed. -/

namespace Sys2Proof

/-- The amount field and type that select the rotate right with extend variant (R73, R83). -/
abbrev isRrxPattern (imm5 : BitVec 5) (stype : BitVec 2) : Prop := imm5 = 0 ∧ stype = 3

/-- Not excluded from encoding A1: cond is not 1111 (R72) and Rn is not the SP (R75). -/
abbrev wellFormedA1 (cond rn : RegNum) : Prop := cond ≠ 15#4 ∧ rn ≠ 13#4

/-- Not redirected from encoding T3: not CMN (register) and Rn is not the SP (R84). -/
abbrev wellFormedT3 (setflags : Bool) (rn rd : RegNum) : Prop := ¬ (setflags = true ∧ rd = 15#4) ∧ rn ≠ 13#4

/-- The term is a word of its row. -/
def Instr.isWellFormed : Instr → Bool
  | .addRrxA1 cond rn _ _ | .addsRrxA1 cond rn _ _ => decide (wellFormedA1 cond rn)
  | .addShiftA1 cond rn _ imm5 stype _ | .addsShiftA1 cond rn _ imm5 stype _ =>
      decide (wellFormedA1 cond rn ∧ ¬ isRrxPattern imm5 stype)
  | .addsT1 _ _ _ | .addT1 _ _ _ => true
  | .addT2 dn rm rdn => decide (regDnRdn dn rdn ≠ 13#4 ∧ rm ≠ 13#4)
  | .addRrxT3 _ rn rd _ => decide (wellFormedT3 false rn rd)
  | .addShiftT3 _ rn imm3 rd imm2 stype _ =>
      decide (wellFormedT3 false rn rd ∧ ¬ isRrxPattern (amountField imm3 imm2) stype)
  | .addsRrxT3 _ rn rd _ => decide (wellFormedT3 true rn rd)
  | .addsShiftT3 _ rn imm3 rd imm2 stype _ =>
      decide (wellFormedT3 true rn rd ∧ ¬ isRrxPattern (amountField imm3 imm2) stype)

/-- The term is a word of its row, as a decidable proposition. -/
abbrev WellFormed (i : Instr) : Prop := i.isWellFormed = true

end Sys2Proof
end

