-- ==== Sys2Proof/Decode.lean ====
section
/-! DEFINITION. Instruction bits, the decoder and the encoder (30_encoding.md; 20_memory.md R51, R52). -/

namespace Sys2Proof

/-- The bits of one instruction as fetched: an A32 word, a T32 halfword, or a T32 pair of halfwords, the
first at the lower address (R51, R70). -/
inductive InstrBits where
  | a32 (w : Word)
  | t16 (h : Half)
  | t32 (hw1 hw2 : Half)
  deriving DecidableEq, Repr

/-- Why bits are no ADD, ADDS (register). -/
inductive Reject where
  /-- SEE "ADD (SP plus register)": R75, R79, R84 -/
  | seeAddSpPlusRegister
  /-- SEE "CMN (register)": R84 -/
  | seeCmnRegister
  /-- another word: not ADD, ADDS (register) (R90, D16, D17) -/
  | notAddRegister
  /-- fewer bytes than the instruction has -/
  | truncated
  deriving DecidableEq, Repr

/-! ## Bit fields -/

/-- A field of `n` bits put at bit `lo` of a bitstring of `w` bits. -/
def field {n : Nat} (w lo : Nat) (x : BitVec n) : BitVec w := x.setWidth w <<< lo

/-! ## The decoder -/

/-- A1's fixed bits: mask 0x0FE00010, match 0x00800000 (R71). -/
def matchesA1 (w : Word) : Bool := w &&& 0x0FE00010#32 == 0x00800000#32

/-- T1's fixed bits: mask 0xFE00, match 0x1800 (R76). -/
def matchesT1 (h : Half) : Bool := h &&& 0xFE00#16 == 0x1800#16

/-- T2's fixed bits: mask 0xFF00, match 0x4400 (R78). -/
def matchesT2 (h : Half) : Bool := h &&& 0xFF00#16 == 0x4400#16

/-- The fixed bits of T3's first halfword: bits 15:5 are 11101011000 (R81). -/
def matchesT3 (hw1 : Half) : Bool := hw1 &&& 0xFFE0#16 == 0xEB00#16

/-- Decode of an A32 word (R71 to R75): cond 1111 is not this instruction, Rn == 1101 redirects. -/
def decodeA1 (w : Word) : Except Reject Instr :=
  let cond := w.extractLsb' 28 4
  let rn := w.extractLsb' 16 4
  let rd := w.extractLsb' 12 4
  let imm5 := w.extractLsb' 7 5
  let stype := w.extractLsb' 5 2
  let rm := w.extractLsb' 0 4
  if !matchesA1 w || cond == 15#4 then .error .notAddRegister
  else if rn == 13#4 then .error .seeAddSpPlusRegister
  else match w.getLsbD 20, decide (isRrxPattern imm5 stype) with
    | false, true => .ok (.addRrxA1 cond rn rd rm)
    | false, false => .ok (.addShiftA1 cond rn rd imm5 stype rm)
    | true, true => .ok (.addsRrxA1 cond rn rd rm)
    | true, false => .ok (.addsShiftA1 cond rn rd imm5 stype rm)

/-- Decode of a T1 halfword (R76, R77): outside an IT block it is ADDS, inside one ADD. -/
def decodeT1 (inIT : Bool) (h : Half) : Instr :=
  let rm := h.extractLsb' 6 3
  let rn := h.extractLsb' 3 3
  let rd := h.extractLsb' 0 3
  if inIT then .addT1 rm rn rd else .addsT1 rm rn rd

/-- Decode of a T2 halfword (R78, R79): the SP in either place redirects (90_conflicts.md C5). -/
def decodeT2 (h : Half) : Except Reject Instr :=
  let dn := h.extractLsb' 7 1
  let rm := h.extractLsb' 3 4
  let rdn := h.extractLsb' 0 3
  if regDnRdn dn rdn == 13#4 || rm == 13#4 then .error .seeAddSpPlusRegister
  else .ok (.addT2 dn rm rdn)

/-- Decode of a 16-bit T32 instruction (R88). -/
def decodeT16 (inIT : Bool) (h : Half) : Except Reject Instr :=
  if matchesT1 h then .ok (decodeT1 inIT h)
  else if matchesT2 h then decodeT2 h
  else .error .notAddRegister

/-- Decode of a T3 pair (R81 to R84): the CMN test comes before the SP test. -/
def decodeT3 (hw1 hw2 : Half) : Except Reject Instr :=
  let s := hw1.getLsbD 4
  let rn := hw1.extractLsb' 0 4
  let sbz := hw2.extractLsb' 15 1
  let imm3 := hw2.extractLsb' 12 3
  let rd := hw2.extractLsb' 8 4
  let imm2 := hw2.extractLsb' 6 2
  let stype := hw2.extractLsb' 4 2
  let rm := hw2.extractLsb' 0 4
  if !matchesT3 hw1 then .error .notAddRegister
  else if rd == 15#4 && s then .error .seeCmnRegister
  else if rn == 13#4 then .error .seeAddSpPlusRegister
  else match s, decide (isRrxPattern (amountField imm3 imm2) stype) with
    | false, true => .ok (.addRrxT3 sbz rn rd rm)
    | false, false => .ok (.addShiftT3 sbz rn imm3 rd imm2 stype rm)
    | true, true => .ok (.addsRrxT3 sbz rn rd rm)
    | true, false => .ok (.addsShiftT3 sbz rn imm3 rd imm2 stype rm)

/-- Decode of fetched bits; `inIT` is InITBlock(), which a T1 halfword needs (R77, R89). -/
def decodeBits (inIT : Bool) : InstrBits → Except Reject Instr
  | .a32 w => decodeA1 w
  | .t16 h => decodeT16 inIT h
  | .t32 hw1 hw2 => decodeT3 hw1 hw2

/-! ## Bytes -/

/-- A halfword in memory order, least significant byte first (R52). -/
def halfBytes (h : Half) : List Byte := [h.extractLsb' 0 8, h.extractLsb' 8 8]

/-- An A32 word in memory order (R52). -/
def wordBytes (w : Word) : List Byte :=
  [w.extractLsb' 0 8, w.extractLsb' 8 8, w.extractLsb' 16 8, w.extractLsb' 24 8]

/-- The halfword that two bytes in memory order make (R52). -/
def halfOfBytes (b0 b1 : Byte) : Half := field 16 8 b1 ||| field 16 0 b0

/-- The A32 word of two halfwords in memory order (R52). -/
def wordOfHalves (low high : Half) : Word := field 32 16 high ||| field 32 0 low

/-- An instruction's bytes in memory order (R52). -/
def InstrBits.bytes : InstrBits → List Byte
  | .a32 w => wordBytes w
  | .t16 h => halfBytes h
  | .t32 hw1 hw2 => halfBytes hw1 ++ halfBytes hw2

/-- Decode from bytes in memory order, with the bytes left over. `t` is PSTATE.T (R70); a halfword with
T3's fixed bits takes a second one (R88). -/
def decode (t inIT : Bool) : List Byte → Except Reject (Instr × List Byte)
  | b0 :: b1 :: rest =>
    let hw1 := halfOfBytes b0 b1
    if t && !matchesT3 hw1 then (decodeT16 inIT hw1).map (·, rest)
    else match rest with
      | b2 :: b3 :: rest' =>
        if t then (decodeT3 hw1 (halfOfBytes b2 b3)).map (·, rest')
        else (decodeA1 (wordOfHalves hw1 (halfOfBytes b2 b3))).map (·, rest')
      | _ => .error .truncated
  | _ => .error .truncated

/-! ## The encoder -/

/-- An A1 word from its fields (R71); `s` is the S bit. -/
def encodeA1 (cond : RegNum) (s : BitVec 1) (rn rd : RegNum) (imm5 : BitVec 5) (stype : BitVec 2) (rm : RegNum) :
    InstrBits :=
  .a32 (field 32 28 cond ||| 0x00800000#32 ||| field 32 20 s ||| field 32 16 rn ||| field 32 12 rd ||| field 32 7 imm5
    ||| field 32 5 stype ||| field 32 0 rm)

/-- A T3 pair from its fields (R81). -/
def encodeT3 (s sbz : BitVec 1) (rn : RegNum) (imm3 : BitVec 3) (rd : RegNum) (imm2 stype : BitVec 2) (rm : RegNum) :
    InstrBits :=
  .t32 (0xEB00#16 ||| field 16 4 s ||| field 16 0 rn)
    (field 16 15 sbz ||| field 16 12 imm3 ||| field 16 8 rd ||| field 16 6 imm2 ||| field 16 4 stype ||| field 16 0 rm)

/-- The bits of an instruction, from the layouts of R71, R76, R78, R81. -/
def encode : Instr → InstrBits
  | .addRrxA1 cond rn rd rm => encodeA1 cond 0 rn rd 0 3 rm
  | .addShiftA1 cond rn rd imm5 stype rm => encodeA1 cond 0 rn rd imm5 stype rm
  | .addsRrxA1 cond rn rd rm => encodeA1 cond 1 rn rd 0 3 rm
  | .addsShiftA1 cond rn rd imm5 stype rm => encodeA1 cond 1 rn rd imm5 stype rm
  | .addsT1 rm rn rd | .addT1 rm rn rd => .t16 (0x1800#16 ||| field 16 6 rm ||| field 16 3 rn ||| field 16 0 rd)
  | .addT2 dn rm rdn => .t16 (0x4400#16 ||| field 16 7 dn ||| field 16 3 rm ||| field 16 0 rdn)
  | .addRrxT3 sbz rn rd rm => encodeT3 0 sbz rn 0 rd 0 3 rm
  | .addShiftT3 sbz rn imm3 rd imm2 stype rm => encodeT3 0 sbz rn imm3 rd imm2 stype rm
  | .addsRrxT3 sbz rn rd rm => encodeT3 1 sbz rn 0 rd 0 3 rm
  | .addsShiftT3 sbz rn imm3 rd imm2 stype rm => encodeT3 1 sbz rn imm3 rd imm2 stype rm

/-- PSTATE.T of the instruction set the instruction belongs to (R70). -/
def Instr.isT32 : Instr → Bool
  | .addRrxA1 .. | .addShiftA1 .. | .addsRrxA1 .. | .addsShiftA1 .. => false
  | .addsT1 .. | .addT1 .. | .addT2 .. | .addRrxT3 .. | .addShiftT3 .. | .addsRrxT3 .. | .addsShiftT3 .. => true

/-- The IT context in which the instruction's bits decode to it: only a T1 halfword depends on it (R77). -/
def Instr.fitsContext (inIT : Bool) : Instr → Bool
  | .addsT1 .. => !inIT
  | .addT1 .. => inIT
  | .addRrxA1 .. | .addShiftA1 .. | .addsRrxA1 .. | .addsShiftA1 .. | .addT2 .. | .addRrxT3 .. | .addShiftT3 ..
  | .addsRrxT3 .. | .addsShiftT3 .. => true

/-! ## The opcode table's words -/

/-- The instruction set and the bytes in memory order of a word of spec/opcode_table.json. A 16-bit row is a
T32 halfword. Of the 32-bit rows, T3's are numbered with hw1 in bits 31:16 ("halfword_order"), and no A1
word has their fixed bits. Two or more zero bytes follow a 16-bit word. Log 7. -/
def tableWordLayout (nbits w : Nat) : Bool × List Byte :=
  let word := BitVec.ofNat 32 w
  if nbits ≤ 16 then (true, halfBytes (BitVec.ofNat 16 w) ++ [0#8, 0#8])
  else if matchesT3 (word.extractLsb' 16 16) then
    (true, halfBytes (word.extractLsb' 16 16) ++ halfBytes (word.extractLsb' 0 16))
  else (false, wordBytes word)

/-- The instruction the decoder reads from an opcode-table word, outside an IT block (log 7). -/
def decodeTableWord (nbits w : Nat) : Option Instr :=
  let layout := tableWordLayout nbits w
  match decode layout.1 false layout.2 with
  | .ok (i, _) => some i
  | .error _ => none

end Sys2Proof
end

