-- ==== Sys2Proof/Machine/State.lean ====
section
/-! DEFINITION. The machine's state as plain data (10_state.md; 60_exceptions.md R194, R199), the state at the
start of a run, and the reasons a step can stop. -/

namespace Sys2Proof.Machine

/-- The PE modes (10_state.md R32). -/
inductive Mode where
  | user | fiq | irq | supervisor | monitor | abort | hyp | undef | system
  deriving DecidableEq, Repr

/-- The process state (10_state.md R28, R30, R31, R32). PSTATE.EL follows the mode and is not stored. -/
structure Pstate where
  /-- condition flags, R28 -/
  n : Bool
  z : Bool
  c : Bool
  v : Bool
  /-- cumulative saturation -/
  q : Bool
  /-- the IT state, R31 -/
  it : BitVec 8
  /-- speculative store bypass safe -/
  ssbs : Bool
  /-- privileged access never -/
  pan : Bool
  /-- data independent timing; no rule reads it (R224) -/
  dit : Bool
  /-- illegal execution state, 60_exceptions.md R195 -/
  il : Bool
  /-- SIMD greater-or-equal flags -/
  ge : BitVec 4
  /-- data endianness -/
  e : Bool
  /-- SError, IRQ and FIQ masks -/
  a : Bool
  i : Bool
  f : Bool
  /-- instruction set: false A32, true T32 -/
  t : Bool
  /-- M[4:0], R32 -/
  mode : Mode
  deriving DecidableEq, Repr

/-- Everything the spec gives the machine. -/
structure State where
  /-- R0 to R14 with every banked copy (10_state.md R20, R23); `gprSlot` in Machine/Operands.lean says which
  word is whose: R0 to R7; R8 to R12; R8_fiq to R12_fiq; R13 of each mode; R14 of each mode -/
  gpr : Vector Word 36
  /-- the address of the instruction being executed (R25) -/
  pc : Word
  /-- PSTATE -/
  pstate : Pstate
  /-- the Saved Program Status Registers (R33) -/
  spsrFiq : Word
  spsrIrq : Word
  spsrSvc : Word
  spsrMon : Word
  spsrAbt : Word
  spsrHyp : Word
  spsrUnd : Word
  /-- ELR_hyp (60_exceptions.md R194, R199) -/
  elrHyp : Word
  /-- HSR: its exception class and every other bit (R194) -/
  hsrEC : BitVec 6
  hsrRest : BitVec 26
  /-- VBAR and HVBAR (R199) -/
  vbar : Word
  hvbar : Word
  /-- SCTLR.TE, SCTLR.EE and its choice of high vectors (R199) -/
  sctlrTE : Bool
  sctlrEE : Bool
  sctlrV : Bool
  /-- HSCTLR.TE and HSCTLR.EE (R199) -/
  hsctlrTE : Bool
  hsctlrEE : Bool
  /-- HCR.TGE (R199) -/
  hcrTGE : Bool
  /-- the PE is in Secure state (10_state.md R32, R195) -/
  secure : Bool
  /-- the local exclusive monitor holds a reservation (R35) -/
  exclusiveLocal : Bool
  /-- the event register (R35) -/
  eventRegister : Bool
  /-- the bytes that P_FETCH defines (20_memory.md R51, R56), strictly rising in address -/
  mem : List Host.Cell
  /-- the model's own: how many free values the run has used (log 26) -/
  fresh : Nat
  deriving DecidableEq, Repr

/-- PSTATE at the start of a run: Supervisor mode, A32 state, A, I, F masked, IT zero (10_state.md R40; log 3),
every other field zero (log 4). -/
def Pstate.reset : Pstate where
  n := false
  z := false
  c := false
  v := false
  q := false
  it := 0
  ssbs := false
  pan := false
  dit := false
  il := false
  ge := 0
  e := false
  a := true
  i := true
  f := true
  t := false
  mode := .supervisor

/-- The machine right after reset (10_state.md R40, 70_reset_and_hazards.md R220; logs 3, 4, 5). -/
def State.reset : State where
  gpr := Vector.replicate 36 0
  pc := 0
  pstate := Pstate.reset
  spsrFiq := 0
  spsrIrq := 0
  spsrSvc := 0
  spsrMon := 0
  spsrAbt := 0
  spsrHyp := 0
  spsrUnd := 0
  elrHyp := 0
  hsrEC := 0
  hsrRest := 0
  vbar := 0
  hvbar := 0
  sctlrTE := false
  sctlrEE := false
  sctlrV := false
  hsctlrTE := false
  hsctlrEE := false
  hcrTGE := false
  secure := false
  exclusiveLocal := false
  eventRegister := false
  mem := []
  fresh := 0

/-- Why the machine stops with a fault. -/
inductive Fault where
  /-- Raised by instruction fetch: no byte is defined at this address. The spec's agent is stuck there
  (20_memory.md R56, D4, U17). Safe. -/
  | fetchUnmapped (address : Word)
  /-- Raised by `step` for an UNDEFINED instruction at this address: `raise Undefined`, which enters no handler
  (60_exceptions.md R191, D12). Safe. -/
  | undefined (address : Word)
  deriving DecidableEq, Repr

/-- Why a step gives no next state. -/
inductive Refusal where
  /-- Raised by exec's arm for an instruction that has no meaning yet; no arm of this model does. Safe. -/
  | notModelled (mnemonic : String)
  /-- Raised by the decoder: the word is another instruction, which the spec gives no meaning (00_scope.md
  R5, 30_encoding.md R90, D16, D17). Safe. -/
  | rejected (why : Reject)
  /-- Raised before the fetch: the pc is misaligned for the instruction set. A real PE takes a PC alignment
  fault, whose entry the spec does not describe (20_memory.md R53, D5). Safe. -/
  | misalignedPc
  /-- Raised by `step` and by the condition check of a T32 instruction: IT[3:0] is zero and IT is not.
  UNPREDICTABLE with no behaviour listed (41_helper_functions.md R142, D22, U11). Safe. -/
  | malformedIT
  /-- Raised by `step` for every word that is UNPREDICTABLE by its decode, or has T3's (0) bit set
  (60_exceptions.md R192 (a), (c), D7, D10). Raised by `exec` for such a word where its behaviour is none that
  93_implementation_defined.md lists, and in a malformed IT state (U11). Safe. -/
  | unpredictable (case : Config.UnpredCase)
  /-- Raised by `step` for an exception return in User or System mode, which is CONSTRAINED UNPREDICTABLE
  (60_exceptions.md R192 (b), D8). Safe. -/
  | returnInUserOrSystem
  /-- Raised by `step` for an A32 branch to an address with bits[1:0] 10, which is CONSTRAINED UNPREDICTABLE
  (60_exceptions.md R192 (c), 20_memory.md R53, D9). Safe. -/
  | branchTargetTen
  deriving DecidableEq, Repr

end Sys2Proof.Machine
end

