-- ==== Sys2Proof/Machine/Flags.lean ====
section
/-! DEFINITION. The sum with its flags, the condition check and the IT state (41_helper_functions.md R142,
R143, R145, R146, R155). -/

namespace Sys2Proof.Machine

/-- The four flags `nzcv` that AddWithCarry answers (R155). -/
structure Nzcv where
  n : Bool
  z : Bool
  c : Bool
  v : Bool
  deriving DecidableEq, Repr

/-- AddWithCarry: the exact unsigned and signed sums, narrowed to 32 bits, and the flags that compare them
with the narrowed result (R155). -/
def addWithCarry (x y : Word) (carryIn : Bool) : Word × Nzcv :=
  let unsignedSum : Nat := x.toNat + y.toNat + carryIn.toNat
  let signedSum : Int := x.toInt + y.toInt + carryIn.toNat
  let result : Word := BitVec.ofNat 32 unsignedSum
  (result,
    { n := result.msb
      z := result == 0
      c := result.toNat != unsignedSum
      v := result.toInt != signedSum })

/-- PSTATE.<N,Z,C,V> = nzcv (40_add_adds_register.md R110). -/
def Pstate.withNzcv (p : Pstate) (k : Nzcv) : Pstate := { p with n := k.n, z := k.z, c := k.c, v := k.v }

/-- ConditionHolds (R143). -/
def conditionHolds (cond : BitVec 4) (p : Pstate) : Bool :=
  let result :=
    match (cond.extractLsb' 1 3).toNat with
    | 0 => p.z
    | 1 => p.c
    | 2 => p.n
    | 3 => p.v
    | 4 => p.c && !p.z
    | 5 => p.n == p.v
    | 6 => p.n == p.v && !p.z
    | _ => true
  if cond.getLsbD 0 && cond != 15#4 then !result else result

/-- InITBlock() (R145). -/
def inITBlock (it : BitVec 8) : Bool := it.extractLsb' 0 4 != 0

/-- LastInITBlock() (R145). -/
def lastInITBlock (it : BitVec 8) : Bool := it.extractLsb' 0 4 == 8

/-- CurrentCond() of a T32 instruction without a condition field; none is the malformed IT state (R142). -/
def currentCondT32 (p : Pstate) : Option (BitVec 4) :=
  if inITBlock p.it then some (p.it.extractLsb' 4 4)
  else if p.it == 0 then some 14
  else none

/-- ITAdvance() (R146). -/
def itAdvance (it : BitVec 8) : BitVec 8 :=
  if it.extractLsb' 0 3 == 0 then 0
  else field 8 5 (it.extractLsb' 5 3) ||| field 8 0 (it.extractLsb' 0 5 <<< 1)

/-- The IT state after a T32 instruction that was fetched inside an IT block (R163). -/
def Pstate.itAdvanced (p : Pstate) : Pstate :=
  if p.t && inITBlock p.it then { p with it := itAdvance p.it } else p

end Sys2Proof.Machine
end

