-- ==== Sys2Proof/Machine/Operands.lean ====
section
/-! DEFINITION. The operand forms: the shift operand (30_encoding.md R86, 41_helper_functions.md R149 to R154)
and the registers (R147, R148; 10_state.md R20 to R25). -/

namespace Sys2Proof.Machine

/-- SRType (R86). -/
inductive SRType where
  | lsl | lsr | asr | ror | rrx
  deriving DecidableEq, Repr

/-- DecodeImmShift (R86). -/
def decodeImmShift (stype : BitVec 2) (imm5 : BitVec 5) : SRType × Nat :=
  match stype.toNat with
  | 0 => (.lsl, imm5.toNat)
  | 1 => (.lsr, if imm5 = 0 then 32 else imm5.toNat)
  | 2 => (.asr, if imm5 = 0 then 32 else imm5.toNat)
  | _ => if imm5 = 0 then (.rrx, 1) else (.ror, imm5.toNat)

/-- Shift: the shifted value; the carry-out is not computed, since the instruction discards it (R149 to R154). -/
def shift (value : Word) (srtype : SRType) (amount : Nat) (carryIn : Bool) : Word :=
  if amount = 0 then value
  else match srtype with
    | .lsl => value <<< amount
    | .lsr => value >>> amount
    | .asr => value.sshiftRight amount
    | .ror => value.rotateRight amount
    | .rrx => field 32 31 (BitVec.ofBool carryIn) ||| value >>> 1

/-- The mode's place in a row of per-mode copies. -/
def modeIndex : Mode → Fin 9
  | .user => 0
  | .fiq => 1
  | .irq => 2
  | .supervisor => 3
  | .monitor => 4
  | .abort => 5
  | .hyp => 6
  | .undef => 7
  | .system => 8

/-- Where register `r` of the mode stands in `State.gpr` (10_state.md R23, log 8): R8 to R12 have a copy for
FIQ mode and one for the rest, R13 and R14 one for each mode. 15 is the PC and has no place here; it gets
R14's, which no caller uses. -/
def gprSlot (m : Mode) (r : RegNum) : Fin 36 :=
  if r.toNat ≤ 7 then ⟨min r.toNat 7, by omega⟩
  else if r.toNat ≤ 12 then
    (if m = .fiq then ⟨13 + (min r.toNat 12 - 8), by omega⟩ else ⟨8 + (min r.toNat 12 - 8), by omega⟩)
  else if r.toNat = 13 then ⟨18 + (modeIndex m).val, by omega⟩
  else ⟨27 + (modeIndex m).val, by omega⟩

/-- The offset at which the PC reads: 8 in A32 state, 4 in T32 state (R147). -/
def pcReadOffset (t : Bool) : Word := if t then 4 else 8

/-- `x[i]` as a source (R147): number 15 reads the instruction's address plus 8 or 4, unaligned. -/
def State.readReg (s : State) (i : RegNum) : Word :=
  if i = 15#4 then s.pc + pcReadOffset s.pstate.t else s.gpr[gprSlot s.pstate.mode i]

/-- `x[i] <- v`, i in 0..14 (R148). -/
def State.writeReg (s : State) (i : RegNum) (v : Word) : State :=
  { s with gpr := s.gpr.set (gprSlot s.pstate.mode i) v }

end Sys2Proof.Machine
end

