-- ==== Sys2Proof/Machine/Ops.lean ====
section
/-! DEFINITION. The named operations: memory, the PC, PSTATE as a register image, taking an exception and
returning from one, and the way from a pc to the instruction it runs (20_memory.md; 41_helper_functions.md
R156 to R163; 60_exceptions.md). -/

namespace Sys2Proof.Machine

/-- The outcome of an instruction or a step. -/
abbrev Result := Host.Outcome State Fault Refusal

/-! ## Memory -/

/-- The byte at an address; an unlisted address has no value (20_memory.md R56, log 5). -/
def Memory.read : List Host.Cell → Nat → Option Byte
  | [], _ => none
  | (k, b) :: rest, a => if k = a then some b else Memory.read rest a

/-- Put a byte at an address, keeping the addresses strictly rising. -/
def Memory.write (a : Nat) (b : Byte) : List Host.Cell → List Host.Cell
  | [] => [(a, b)]
  | (k, c) :: rest =>
    if a < k then (a, b) :: (k, c) :: rest
    else if a = k then (a, b) :: rest
    else (k, c) :: Memory.write a b rest

/-- The canonical form: addresses strictly rising and inside the 32-bit space (20_memory.md R55). -/
abbrev Memory.wf (m : List Host.Cell) : Prop :=
  (m.map Prod.fst).Pairwise (· < ·) ∧ ∀ a ∈ m.map Prod.fst, a < 2 ^ 32

/-- The byte the state holds at a 32-bit address. -/
def State.readByte (s : State) (a : Word) : Option Byte := Memory.read s.mem a.toNat

/-- Place bytes at rising addresses from `a`, modulo 2^32 (10_state.md R27). -/
def Memory.writeBytes (a : Word) : List Byte → List Host.Cell → List Host.Cell
  | [], m => m
  | b :: bs, m => Memory.writeBytes (a + 1) bs (Memory.write a.toNat b m)

/-! ## Fetch -/

/-- A byte of the program text, or the fault of an address that defines none. -/
def fetchByte (s : State) (a : Word) : Except Fault Byte :=
  match s.readByte a with
  | some b => .ok b
  | none => .error (.fetchUnmapped a)

/-- The halfword at `a`, little-endian (R52). -/
def fetchHalf (s : State) (a : Word) : Except Fault Half :=
  match fetchByte s a with
  | .error f => .error f
  | .ok b0 =>
    match fetchByte s (a + 1) with
    | .error f => .error f
    | .ok b1 => .ok (halfOfBytes b0 b1)

/-- The A32 word at `a`, little-endian (R52): the byte at the lowest address is the lowest. -/
def fetchWord (s : State) (a : Word) : Except Fault Word :=
  match fetchHalf s a with
  | .error f => .error f
  | .ok low =>
    match fetchHalf s (a + 2) with
    | .error f => .error f
    | .ok high => .ok (wordOfHalves low high)

/-- The bits at the pc in the instruction set PSTATE.T selects (R51, R88): a halfword with T3's fixed bits
is followed by a second one. -/
def fetch (s : State) : Except Fault InstrBits :=
  if s.pstate.t then
    match fetchHalf s s.pc with
    | .error f => .error f
    | .ok hw1 =>
      if matchesT3 hw1 then
        match fetchHalf s (s.pc + 2) with
        | .error f => .error f
        | .ok hw2 => .ok (.t32 hw1 hw2)
      else .ok (.t16 hw1)
  else
    match fetchWord s s.pc with
    | .error f => .error f
    | .ok w => .ok (.a32 w)

/-! ## The PC -/

/-- The pc is aligned for the instruction set (10_state.md R27, 20_memory.md R53). -/
def State.pcAligned (s : State) : Bool :=
  if s.pstate.t then s.pc.extractLsb' 0 1 == 0 else s.pc.extractLsb' 0 2 == 0

/-- Bits 1:0 cleared. -/
def alignWord (a : Word) : Word := a &&& 0xFFFFFFFC#32

/-- Bit 0 cleared. -/
def alignHalf (a : Word) : Word := a &&& 0xFFFFFFFE#32

/-- The end of an instruction that did not branch: the pc moves past it, modulo 2^32, and a T32 instruction
inside an IT block advances the IT state (41_helper_functions.md R163). -/
def advance (len : Word) (s : State) : State := { s with pc := s.pc + len, pstate := s.pstate.itAdvanced }

/-- BXWritePC, the interworking branch (R157): bit 0 selects the instruction set. To an A32 target with
bit 1 set, `Config.a32ForceAlignPc` says whether bit 1 is cleared or kept (log 17). -/
def bxWritePC (address : Word) (s : State) : State :=
  if address.getLsbD 0 then { s with pc := alignHalf address, pstate := { s.pstate with t := true } }
  else
    { s with
      pc := if address.getLsbD 1 && Config.a32ForceAlignPc then alignWord address else address
      pstate := { s.pstate with t := false } }

/-- BranchWritePC, the simple branch (R158). -/
def branchWritePC (address : Word) (s : State) : State :=
  { s with pc := if s.pstate.t then alignHalf address else alignWord address }

/-- ALUWritePC (R156): interworking in A32 state, simple in T32 state. -/
def aluWritePC (address : Word) (s : State) : State :=
  if s.pstate.t then branchWritePC address s else bxWritePC address s

/-- The end of an instruction that branched with ALUWritePC; the IT state advances as it does after any
instruction (R163). -/
def branchTo (address : Word) (s : State) : State :=
  aluWritePC address { s with pstate := s.pstate.itAdvanced }

/-! ## Free values -/

/-- The next free word, and the state that has used it (log 26). -/
def takeFree (s : State) : Word × State := (Config.freeWord s.fresh, { s with fresh := s.fresh + 1 })

/-! ## PSTATE as a register image -/

/-- The M[4:0] encoding of a mode (10_state.md R32). -/
def Mode.bits : Mode → BitVec 5
  | .user => 0b10000
  | .fiq => 0b10001
  | .irq => 0b10010
  | .supervisor => 0b10011
  | .monitor => 0b10110
  | .abort => 0b10111
  | .hyp => 0b11010
  | .undef => 0b11011
  | .system => 0b11111

/-- The mode an M[4:0] value names, if it names one (R32). -/
def Mode.ofBits (m : BitVec 5) : Option Mode :=
  [Mode.user, .fiq, .irq, .supervisor, .monitor, .abort, .hyp, .undef, .system].find? (fun k => k.bits == m)

/-- PSTATE as a 32-bit SPSR image, in the layout of R30; bit 24 is 0 (log 23). -/
def Pstate.image (p : Pstate) : Word :=
  let flag (lo : Nat) (b : Bool) : Word := field 32 lo (BitVec.ofBool b)
  flag 31 p.n ||| flag 30 p.z ||| flag 29 p.c ||| flag 28 p.v ||| flag 27 p.q ||| field 32 25 (p.it.extractLsb' 0 2)
    ||| flag 23 p.ssbs ||| flag 22 p.pan ||| flag 21 p.dit ||| flag 20 p.il ||| field 32 16 p.ge
    ||| field 32 10 (p.it.extractLsb' 2 6) ||| flag 9 p.e ||| flag 8 p.a ||| flag 7 p.i ||| flag 6 p.f ||| flag 5 p.t
    ||| field 32 0 p.mode.bits

/-- The IT state a return restores: the SPSR's, forced to zero where a nonzero one is not permitted (R162):
in A32 state, and where IT[3:0] is zero (log 15). -/
def restoredIT (t : Bool) (spsr : Word) : BitVec 8 :=
  let it := field 8 2 (spsr.extractLsb' 10 6) ||| field 8 0 (spsr.extractLsb' 25 2)
  if t && inITBlock it then it else 0

/-- SPSR_<current_mode>; User and System mode have none (R33). -/
def State.currentSpsr (s : State) : Option Word :=
  match s.pstate.mode with
  | .user | .system => none
  | .fiq => some s.spsrFiq
  | .irq => some s.spsrIrq
  | .supervisor => some s.spsrSvc
  | .monitor => some s.spsrMon
  | .abort => some s.spsrAbt
  | .hyp => some s.spsrHyp
  | .undef => some s.spsrUnd

/-! ## Return from an exception -/

/-- The Exception level of a mode (R32): the modes other than User, Hyp and Monitor are EL1, or EL3 in Secure
state when EL3 uses AArch32. -/
def exceptionLevel (secure : Bool) : Mode → Nat
  | .user => 0
  | .hyp => 2
  | .monitor => 3
  | .fiq | .irq | .supervisor | .abort | .undef | .system => if secure && Config.el3UsesAArch32 then 3 else 1

/-- An illegal return event (60_exceptions.md R195): SPSR.M names no mode, a mode that is not implemented, one
at a higher Exception level, Hyp mode from Secure state, or Monitor mode from Non-secure state (log 14). -/
def illegalReturn (spsr : Word) (s : State) : Bool :=
  match Mode.ofBits (spsr.extractLsb' 0 5) with
  | none => true
  | some m =>
    decide (exceptionLevel s.secure s.pstate.mode < exceptionLevel s.secure m)
      || (m == .hyp && (s.secure || !Config.hasHyp))
      || (m == .monitor && (!s.secure || !Config.hasMonitor))

/-- SetPSTATEFromPSR (R162). On an illegal return the mode stays, IL is set, and T is copied or cleared. -/
def setPstateFromPsr (spsr : Word) (illegal : Bool) (p : Pstate) : Pstate :=
  let t := spsr.getLsbD 5 && (!illegal || Config.illegalReturnCopiesT)
  { n := spsr.getLsbD 31
    z := spsr.getLsbD 30
    c := spsr.getLsbD 29
    v := spsr.getLsbD 28
    q := spsr.getLsbD 27
    it := restoredIT t spsr
    ssbs := if Config.hasSsbs then spsr.getLsbD 23 else p.ssbs
    pan := if Config.hasPan then spsr.getLsbD 22 else p.pan
    dit := if Config.hasDit then spsr.getLsbD 21 else p.dit
    il := illegal || spsr.getLsbD 20
    ge := spsr.extractLsb' 16 4
    e := spsr.getLsbD 9
    a := spsr.getLsbD 8
    i := spsr.getLsbD 7
    f := spsr.getLsbD 6
    t := t
    mode := if illegal then p.mode else (Mode.ofBits (spsr.extractLsb' 0 5)).getD p.mode }

/-- AArch32.ExceptionReturn (R161): PSTATE from the SPSR, the exclusive monitor cleared, the event register
set, and the pc aligned for the restored instruction set. -/
def exceptionReturn (address spsr : Word) (s : State) : State :=
  let p := setPstateFromPsr spsr (illegalReturn spsr s) s.pstate
  { s with
    pstate := p
    pc := if p.t then alignHalf address else alignWord address
    exclusiveLocal := false
    eventRegister := true }

/-! ## Taking an exception -/

/-- The Undefined Instruction vector's offset (60_exceptions.md R194, R199). -/
def undefVector : Word := 0x04

/-- The offset of an exception routed to Hyp mode from a lower level (log 13). -/
def hypTrapVector : Word := 0x14

/-- The exception base address outside Hyp mode (R199): VBAR, or 0xFFFF0000 with high vectors. -/
def State.exceptionBase (s : State) : Word := if s.sctlrV then 0xFFFF0000 else s.vbar

/-- The exception goes to Hyp mode from a lower level: HCR.TGE routes it there (R199, log 13). -/
def State.routedToHyp (s : State) : Bool :=
  s.hcrTGE && s.pstate.mode == .user && !s.secure && Config.hasHyp

/-- Entry to Hyp mode (R194, R199): ELR_hyp is the instruction's address, SPSR_hyp the old PSTATE, HSR the
exception class, IT zero, T and E from HSCTLR (log 12). What R199 does not list is kept: of PSTATE the flags, Q, GE,
SSBS, PAN, DIT, A, I and F, and the other saved registers, the exclusive monitor and the event register (logs 12,
31). -/
def enterHyp (ec : BitVec 6) (offset : Word) (s : State) : State :=
  { s with
    elrHyp := s.pc
    spsrHyp := s.pstate.image
    hsrEC := ec
    hsrRest := Config.freeHsrRest s.fresh
    fresh := s.fresh + 1
    pstate := { s.pstate with mode := .hyp, it := 0, t := s.hsctlrTE, e := s.hsctlrEE, il := false }
    pc := s.hvbar + offset }

/-- What LR_und receives: the instruction's address plus 4 in A32 state (R199), plus 2 in T32 state (log 11). -/
def undefReturnAddress (s : State) : Word := s.pc + (if s.pstate.t then 2 else 4)

/-- Entry to Undefined mode (R199): LR_und, SPSR_und the old PSTATE, IRQ masked, IT zero, T and E from SCTLR
(log 11). What R199 does not list is kept: of PSTATE the flags, Q, GE, SSBS, PAN, DIT, A and F, and the other saved
registers, the exclusive monitor and the event register (logs 11, 31). -/
def enterUndef (s : State) : State :=
  { s with
    gpr := s.gpr.set (gprSlot .undef 14) (undefReturnAddress s)
    spsrUnd := s.pstate.image
    pstate := { s.pstate with mode := .undef, i := true, it := 0, t := s.sctlrTE, e := s.sctlrEE, il := false }
    pc := s.exceptionBase + undefVector }

/-- Taking an exception that is reported as an Undefined Instruction exception (R191, R199): from Hyp mode to
Hyp mode, otherwise to Undefined mode, or to Hyp mode where HCR.TGE routes it. `ec` is the exception class HSR
records. -/
def takeException (ec : BitVec 6) (s : State) : State :=
  if s.pstate.mode = .hyp then enterHyp ec undefVector s
  else if s.routedToHyp then enterHyp ec hypTrapVector s
  else enterUndef s

/-- The Undefined Instruction exception: exception class 0, unknown reason (R194). -/
def takeUndefined (s : State) : State := takeException 0 s

/-- The Illegal Execution state exception, reported as an Undefined Instruction exception (R195, log 16). -/
def takeIllegalState (s : State) : State :=
  takeException (Config.freeHsrEC s.fresh) { s with fresh := s.fresh + 1 }

/-- ALUExceptionReturn (R160): UNDEFINED in Hyp mode; in User and System mode, which have no SPSR, UNDEFINED or
a NOP as the implementation chooses (log 10); otherwise the return. -/
def aluExceptionReturn (address len : Word) (s : State) : Result :=
  if s.pstate.mode = .hyp then .next (takeUndefined s)
  else
    match s.currentSpsr with
    | some spsr => .next (exceptionReturn address spsr s)
    | none =>
      match Config.cuAluExcRet with
      | .undef => .next (takeUndefined s)
      | .nop => .next (advance len s)

/-! ## From the pc to an instruction -/

/-- The instruction the machine runs at this state, or the outcome that comes instead of one (R163): a
misaligned pc (D5), a fetch from an address that holds nothing (D4), the Illegal Execution state exception
(R195), a word that is another instruction (R90). -/
def frontEnd (s : State) : Except Result Instr :=
  if !s.pcAligned then .error (.refused .misalignedPc)
  else
    match fetch s with
    | .error f => .error (.fault f)
    | .ok bits =>
      if s.pstate.il then .error (.next (takeIllegalState s))
      else
        match decodeBits (inITBlock s.pstate.it) bits with
        | .error r => .error (.refused (.rejected r))
        | .ok i => .ok i

/-- The state with an opcode-table word placed where the next step fetches: its bytes at the pc, PSTATE.T its
instruction set, the pc aligned for it and no Illegal Execution state pending (log 6). -/
def placeWord (s : State) (nbits w : Nat) : State :=
  let layout := tableWordLayout nbits w
  let pc := if layout.1 then alignHalf s.pc else alignWord s.pc
  { s with
    pc := pc
    pstate := { s.pstate with t := layout.1, il := false }
    mem := Memory.writeBytes pc layout.2 s.mem }

end Sys2Proof.Machine
end

