-- ==== Sys2Proof/Machine/Operation.lean ====
section
/-! DEFINITION. The Operation common to the four encodings (40_add_adds_register.md R110) and the treatment of
the UNPREDICTABLE words by exec (93_implementation_defined.md U3 to U8, U10), which a step refuses (60_exceptions.md R192,
R193; Machine/Decided.lean, log 32). -/

namespace Sys2Proof.Machine

/-- What an encoding's Decode pseudocode binds (R144), and the instruction's length in bytes (R163). -/
structure AddForm where
  d : RegNum
  n : RegNum
  m : RegNum
  setflags : Bool
  shiftT : SRType
  shiftN : Nat
  len : Word
  deriving DecidableEq, Repr

/-- The sum and its flags from the two source values (R110): the second is shifted first, with the C flag of
the state before the instruction, and the carry-in of the sum is '0'. -/
def addValues (f : AddForm) (xn xm : Word) (s : State) : Word × Nzcv :=
  addWithCarry xn (shift xm f.shiftT f.shiftN s.pstate.c) false

/-- `x[d] <- result` and, for ADDS, the flags; then the next instruction in memory (R110, R116, R163). -/
def writeResult (f : AddForm) (result : Word) (flags : Nzcv) (s : State) : State :=
  let written := s.writeReg f.d result
  advance f.len (if f.setflags then { written with pstate := written.pstate.withNzcv flags } else written)

/-- The end of the Operation: the PC as destination branches (ADD, R113) or returns from an exception (ADDS,
R114); another destination takes the result. -/
def finish (f : AddForm) (r : Word × Nzcv) (s : State) : Result :=
  if f.d = 15#4 then
    if f.setflags then aluExceptionReturn r.1 f.len s else .next (branchTo r.1 s)
  else .next (writeResult f r.1 r.2 s)

/-- The body of the Operation, with its sources read from the registers (R110, R115). -/
def operate (f : AddForm) (s : State) : Result :=
  finish f (addValues f (s.readReg f.n) (s.readReg f.m) s) s

/-- ConditionPassed() as a value handed on; a malformed IT state is refused (R142, R143, D22). -/
def withCondition (cond : Option (BitVec 4)) (s : State) (k : Bool → Result) : Result :=
  match cond with
  | none => .refused .malformedIT
  | some c => k (conditionHolds c s.pstate)

/-- The body if the condition passed, else only the advance (R112). -/
def guarded (passed : Bool) (len : Word) (body : State → Result) (s : State) : Result :=
  if passed then body s else .next (advance len s)

/-- The body under the condition of the IT state, which a T32 instruction takes (R112, R142). -/
def conditionalT32 (len : Word) (body : State → Result) (s : State) : Result :=
  withCondition (currentCondT32 s.pstate) s fun passed => guarded passed len body s

/-- An UNPREDICTABLE word: one of the behaviours 93_implementation_defined.md lists for it, freely chosen, or a
stop where the choice is none of them. The word is UNPREDICTABLE whether or not its condition passes
(60_exceptions.md R193, 90_conflicts.md C7), and the decode says so before the condition is looked at (00_scope.md R9).
In a malformed IT state, for which nothing is listed (U11), it stops. `execute` and `variant` are the two ways of
executing. Logs 19, 20. -/
def unpredictable (case : Config.UnpredCase) (len : Word) (execute variant : State → Result) (s : State) : Result :=
  let s' := { s with fresh := s.fresh + 1 }
  if currentCondT32 s.pstate = none then .refused (.unpredictable case)
  else
    match Config.unpred case s.fresh with
    | .undefined => .next (takeUndefined s')
    | .nop => .next (advance len s')
    | .execute => execute s'
    | .variant => variant s'
    | .unlisted => .refused (.unpredictable case)

/-- A branch to an UNKNOWN address. -/
def branchUnknown (s : State) : Result :=
  let (target, s') := takeFree s
  .next (branchTo target s')

end Sys2Proof.Machine
end

