-- ==== Sys2Proof/Machine/AddA1.lean ====
section
/-! DEFINITION. The four rows of encoding A1 (40_add_adds_register.md R120 to R123; decode 30_encoding.md R74). -/

namespace Sys2Proof.Machine

/-- What the A1 decode binds (R74). -/
def formA1 (setflags : Bool) (rn rd : RegNum) (imm5 : BitVec 5) (stype : BitVec 2) (rm : RegNum) : AddForm :=
  let sh := decodeImmShift stype imm5
  { d := rd, n := rn, m := rm, setflags := setflags, shiftT := sh.1, shiftN := sh.2, len := 4 }

/-- An A1 word: the Operation under the condition of its cond field (R110, R142). -/
def runA1 (cond : RegNum) (f : AddForm) (s : State) : Result :=
  withCondition (some cond) s fun passed => guarded passed f.len (operate f) s

/-- ADD (A1), rotate right with extend: R120; its imm5 is 00000 and its stype 11. -/
def execAddRrxA1 (cond rn rd rm : RegNum) (s : State) : Result := runA1 cond (formA1 false rn rd 0 3 rm) s

/-- ADD (A1), shift or rotate by value: R121. -/
def execAddShiftA1 (cond rn rd : RegNum) (imm5 : BitVec 5) (stype : BitVec 2) (rm : RegNum) (s : State) : Result :=
  runA1 cond (formA1 false rn rd imm5 stype rm) s

/-- ADDS (A1), rotate right with extend: R122. -/
def execAddsRrxA1 (cond rn rd rm : RegNum) (s : State) : Result := runA1 cond (formA1 true rn rd 0 3 rm) s

/-- ADDS (A1), shift or rotate by value: R123. -/
def execAddsShiftA1 (cond rn rd : RegNum) (imm5 : BitVec 5) (stype : BitVec 2) (rm : RegNum) (s : State) : Result :=
  runA1 cond (formA1 true rn rd imm5 stype rm) s

end Sys2Proof.Machine
end

