-- ==== Sys2Proof/Machine/AddT1.lean ====
section
/-! DEFINITION. The two rows of encoding T1 (40_add_adds_register.md R124, R125; decode 30_encoding.md R77). -/

namespace Sys2Proof.Machine

/-- A T1 field's register: R0 to R7 (30_encoding.md R76). -/
def lowReg (r : BitVec 3) : RegNum := r.setWidth 4

/-- What the T1 decode binds (R77): no shift. -/
def formT1 (setflags : Bool) (rm rn rd : BitVec 3) : AddForm :=
  { d := lowReg rd, n := lowReg rn, m := lowReg rm, setflags := setflags, shiftT := .lsl, shiftN := 0, len := 2 }

/-- A T1 halfword: the Operation under the condition of the IT state (R110, R142). -/
def runT1 (f : AddForm) (s : State) : Result :=
  conditionalT32 f.len (operate f) s

/-- ADDS (T1), outside an IT block: R124. -/
def execAddsT1 (rm rn rd : BitVec 3) (s : State) : Result := runT1 (formT1 true rm rn rd) s

/-- ADD (T1), inside an IT block: R125. -/
def execAddT1 (rm rn rd : BitVec 3) (s : State) : Result := runT1 (formT1 false rm rn rd) s

end Sys2Proof.Machine
end

