-- ==== Sys2Proof/Machine/AddT2.lean ====
section
/-! DEFINITION. The row of encoding T2 (40_add_adds_register.md R126; decode 30_encoding.md R79, R80). -/

namespace Sys2Proof.Machine

/-- What the T2 decode binds (R79): n is d, no flags, no shift. -/
def formT2 (dn : BitVec 1) (rm : RegNum) (rdn : BitVec 3) : AddForm :=
  { d := regDnRdn dn rdn, n := regDnRdn dn rdn, m := rm, setflags := false, shiftT := .lsl, shiftN := 0, len := 2 }

/-- A branch inside an IT block that is not its last instruction, executed (U4): the branch if `taken`, else the
next instruction in memory; either way the IT state of the following instructions is UNKNOWN. -/
def branchFreeIT (f : AddForm) (taken : Bool) (s : State) : Result :=
  let target := (addValues f (s.readReg f.n) (s.readReg f.m) s).1
  let s' := { s with fresh := s.fresh + 1 }
  let t := if taken then aluWritePC target s' else advance f.len s'
  .next { t with pstate := { t.pstate with it := Config.freeIT s.fresh } }

/-- ADD (T2): R126. `ADD PC, PC` and a branch that is not the last instruction of its IT block are
UNPREDICTABLE (R80), tested in the order of the Decode listing, before the condition (00_scope.md R9). -/
def execAddT2 (dn : BitVec 1) (rm : RegNum) (rdn : BitVec 3) (s : State) : Result :=
  let f := formT2 dn rm rdn
  if regDnRdn dn rdn = 15#4 ∧ rm = 15#4 then
    unpredictable .t2PcPc f.len (conditionalT32 f.len branchUnknown) (conditionalT32 f.len branchUnknown) s
  else if regDnRdn dn rdn = 15#4 ∧ inITBlock s.pstate.it ∧ ¬ lastInITBlock s.pstate.it then
    unpredictable .t2BranchInIT f.len
      (fun t => withCondition (currentCondT32 t.pstate) t fun passed => branchFreeIT f passed t) (branchFreeIT f true) s
  else conditionalT32 f.len (operate f) s

end Sys2Proof.Machine
end

