-- ==== Sys2Proof/Machine/AddT3.lean ====
section
/-! DEFINITION. The four rows of encoding T3 (40_add_adds_register.md R127 to R130; decode 30_encoding.md R82,
R84, R85). -/

namespace Sys2Proof.Machine

/-- What the T3 decode binds (R84). -/
def formT3 (setflags : Bool) (rn : RegNum) (imm3 : BitVec 3) (rd : RegNum) (imm2 stype : BitVec 2) (rm : RegNum) :
    AddForm :=
  let sh := decodeImmShift stype (amountField imm3 imm2)
  { d := rd, n := rn, m := rm, setflags := setflags, shiftT := sh.1, shiftN := sh.2, len := 4 }

/-- A source register of a T3 word; number 15 reads an UNKNOWN value (U6, U7). -/
def readFreePc (i : RegNum) (s : State) : Word × State :=
  if i = 15#4 then takeFree s else (s.readReg i, s)

/-- The Operation with UNKNOWN values for the PC as a source (U6, U7). -/
def operateFreePc (f : AddForm) (s : State) : Result :=
  let (xn, s1) := readFreePc f.n s
  let (xm, s2) := readFreePc f.m s1
  finish f (addValues f xn xm s) s2

/-- A T3 word whose (0) bit is 0, or is read as if it were: the PC as a register is UNPREDICTABLE (R85), the
destination first, and before the condition (00_scope.md R9). -/
def checkedT3 (f : AddForm) (s : State) : Result :=
  if f.d = 15#4 ∧ ¬ f.setflags then
    unpredictable .t3DestPc f.len (conditionalT32 f.len branchUnknown) (fun t => .next (advance f.len t)) s
  else if f.n = 15#4 then
    unpredictable .t3FirstPc f.len (conditionalT32 f.len (operateFreePc f)) (conditionalT32 f.len (operateFreePc f)) s
  else if f.m = 15#4 then
    unpredictable .t3SecondPc f.len (conditionalT32 f.len (operateFreePc f)) (conditionalT32 f.len (operateFreePc f)) s
  else conditionalT32 f.len (operate f) s

/-- The Operation with an UNKNOWN value in the destination register (U10); the flags are those of the sum. -/
def operateFreeDest (f : AddForm) (s : State) : Result :=
  let r := addValues f (s.readReg f.n) (s.readReg f.m) s
  let (free, s') := takeFree s
  .next (writeResult f free r.2 s')

/-- A T3 word with its (0) bit set (R82, U10): as if the bit were 0, or with an UNKNOWN destination register. A
word that also names the PC is treated as R85 treats it. -/
def sbzT3 (f : AddForm) (s : State) : Result :=
  unpredictable .t3Sbz f.len (checkedT3 f)
    (if f.d = 15#4 ∨ f.n = 15#4 ∨ f.m = 15#4 then checkedT3 f else conditionalT32 f.len (operateFreeDest f)) s

/-- A T3 pair: the (0) bit (R82), the registers (R85), then the Operation under the condition of the IT state (R110,
R142). -/
def runT3 (sbz : BitVec 1) (f : AddForm) (s : State) : Result :=
  if sbz = 1#1 then sbzT3 f s else checkedT3 f s

/-- ADD (T3), rotate right with extend: R127; its imm3 is 000, its imm2 00 and its stype 11. -/
def execAddRrxT3 (sbz : BitVec 1) (rn rd rm : RegNum) (s : State) : Result :=
  runT3 sbz (formT3 false rn 0 rd 0 3 rm) s

/-- ADD (T3), shift or rotate by value: R128. -/
def execAddShiftT3 (sbz : BitVec 1) (rn : RegNum) (imm3 : BitVec 3) (rd : RegNum) (imm2 stype : BitVec 2) (rm : RegNum)
    (s : State) : Result :=
  runT3 sbz (formT3 false rn imm3 rd imm2 stype rm) s

/-- ADDS (T3), rotate right with extend: R129. -/
def execAddsRrxT3 (sbz : BitVec 1) (rn rd rm : RegNum) (s : State) : Result :=
  runT3 sbz (formT3 true rn 0 rd 0 3 rm) s

/-- ADDS (T3), shift or rotate by value: R130. -/
def execAddsShiftT3 (sbz : BitVec 1) (rn : RegNum) (imm3 : BitVec 3) (rd : RegNum) (imm2 stype : BitVec 2) (rm : RegNum)
    (s : State) : Result :=
  runT3 sbz (formT3 true rn imm3 rd imm2 stype rm) s

end Sys2Proof.Machine
end

