-- ==== Sys2Proof/Machine/Dispatch.lean ====
section
/-! DEFINITION. One arm per row of spec/opcode_table.json, each one call of its meaning. -/

namespace Sys2Proof.Machine
open Sys2Proof

def exec (i : Instr) (s : State) : Host.Outcome State Fault Refusal :=
  match i with
  | .addRrxA1 cond rn rd rm => Sys2Proof.Machine.execAddRrxA1 cond rn rd rm s
  | .addShiftA1 cond rn rd imm5 stype rm => Sys2Proof.Machine.execAddShiftA1 cond rn rd imm5 stype rm s
  | .addsRrxA1 cond rn rd rm => Sys2Proof.Machine.execAddsRrxA1 cond rn rd rm s
  | .addsShiftA1 cond rn rd imm5 stype rm => Sys2Proof.Machine.execAddsShiftA1 cond rn rd imm5 stype rm s
  | .addsT1 rm rn rd => Sys2Proof.Machine.execAddsT1 rm rn rd s
  | .addT1 rm rn rd => Sys2Proof.Machine.execAddT1 rm rn rd s
  | .addT2 dn rm rdn => Sys2Proof.Machine.execAddT2 dn rm rdn s
  | .addRrxT3 sbz rn rd rm => Sys2Proof.Machine.execAddRrxT3 sbz rn rd rm s
  | .addShiftT3 sbz rn imm3 rd imm2 stype rm => Sys2Proof.Machine.execAddShiftT3 sbz rn imm3 rd imm2 stype rm s
  | .addsRrxT3 sbz rn rd rm => Sys2Proof.Machine.execAddsRrxT3 sbz rn rd rm s
  | .addsShiftT3 sbz rn imm3 rd imm2 stype rm => Sys2Proof.Machine.execAddsShiftT3 sbz rn imm3 rd imm2 stype rm s

end Sys2Proof.Machine
end

