-- ==== Sys2Proof/Machine/Decided.lean ====
section
/-! DEFINITION. The outcomes of a step that are not a next state though an instruction is read: `raise Undefined` and
`refuse`, with nothing written (60_exceptions.md R190 to R193; D7 to D10, D12, D18, D22). `step` performs an instruction
under them. `exec` alone gives what 93_implementation_defined.md and R199 say a real PE does there. Log 32. -/

namespace Sys2Proof.Machine

/-- How a step stops: in a fault or a refusal. -/
abbrev Stop := Fault ⊕ Refusal

/-- The outcome of a step that stops: no register, flag or pc is written (R190). -/
def stopped : Stop → Result
  | .inl f => .fault f
  | .inr r => .refused r

/-- A1: the execution-time cases, which do not arise when the condition fails (40_add_adds_register.md R114, R117 (a), (b),
(f); R193). The return in a mode with an SPSR is the parameter P_EXC_RETURN, which the model implements (log 9). -/
def decidedA1 (cond : RegNum) (f : AddForm) (s : State) : Option Stop :=
  if f.d = 15#4 ∧ conditionHolds cond s.pstate = true then
    if f.setflags then
      if s.pstate.mode = .hyp then some (.inl (.undefined s.pc))
      else if s.currentSpsr = none then some (.inr .returnInUserOrSystem)
      else none
    else if s.pstate.t = false ∧ (addValues f (s.readReg f.n) (s.readReg f.m) s).1.extractLsb' 0 2 = 2#2 then
      some (.inr .branchTargetTen)
    else none
  else none

/-- T2: the cases of 30_encoding.md R80, whether or not the condition passes (R193, D18). -/
def decidedT2 (f : AddForm) (s : State) : Option Stop :=
  if f.d = 15#4 ∧ f.m = 15#4 then some (.inr (.unpredictable .t2PcPc))
  else if f.d = 15#4 ∧ inITBlock s.pstate.it = true ∧ lastInITBlock s.pstate.it = false then
    some (.inr (.unpredictable .t2BranchInIT))
  else none

/-- T3: the (0) bit (30_encoding.md R82) and the cases of R85, whether or not the condition passes (R193, D18). -/
def decidedT3 (sbz : BitVec 1) (f : AddForm) : Option Stop :=
  if sbz = 1#1 then some (.inr (.unpredictable .t3Sbz))
  else if f.d = 15#4 ∧ f.setflags = false then some (.inr (.unpredictable .t3DestPc))
  else if f.n = 15#4 then some (.inr (.unpredictable .t3FirstPc))
  else if f.m = 15#4 then some (.inr (.unpredictable .t3SecondPc))
  else none

/-- A T32 instruction: its own decode cases first, then the condition check's malformed IT state (00_scope.md R9, R142,
D22). -/
def decidedT32 (s : State) (own : Option Stop) : Option Stop :=
  own.or (if s.pstate.it ≠ 0 ∧ inITBlock s.pstate.it = false then some (.inr .malformedIT) else none)

/-- The stop of a step on an instruction, if it has one: R117 (a), (b), (c), (f), R191, R192, R223 (a) to (d), (f). -/
def decidedStop (i : Instr) (s : State) : Option Stop :=
  match i with
  | .addRrxA1 cond rn rd rm => decidedA1 cond (formA1 false rn rd 0 3 rm) s
  | .addShiftA1 cond rn rd imm5 stype rm => decidedA1 cond (formA1 false rn rd imm5 stype rm) s
  | .addsRrxA1 cond rn rd rm => decidedA1 cond (formA1 true rn rd 0 3 rm) s
  | .addsShiftA1 cond rn rd imm5 stype rm => decidedA1 cond (formA1 true rn rd imm5 stype rm) s
  | .addsT1 .. => decidedT32 s none
  | .addT1 .. => decidedT32 s none
  | .addT2 dn rm rdn => decidedT32 s (decidedT2 (formT2 dn rm rdn) s)
  | .addRrxT3 sbz rn rd rm => decidedT32 s (decidedT3 sbz (formT3 false rn 0 rd 0 3 rm))
  | .addShiftT3 sbz rn imm3 rd imm2 stype rm => decidedT32 s (decidedT3 sbz (formT3 false rn imm3 rd imm2 stype rm))
  | .addsRrxT3 sbz rn rd rm => decidedT32 s (decidedT3 sbz (formT3 true rn 0 rd 0 3 rm))
  | .addsShiftT3 sbz rn imm3 rd imm2 stype rm => decidedT32 s (decidedT3 sbz (formT3 true rn imm3 rd imm2 stype rm))

/-- What a step does with the instruction it read (00_scope.md R9, 60_exceptions.md R190): it stops where the rules say
`raise Undefined` or `refuse`, and otherwise the instruction has its effect. -/
def perform (i : Instr) (s : State) : Result :=
  match decidedStop i s with
  | some w => stopped w
  | none => exec i s

/-- The step of a PE that does what 93_implementation_defined.md and R199 say a real one does, where `step` stops. -/
def permittedStep (s : State) : Result :=
  match frontEnd s with
  | .ok i => exec i s
  | .error outcome => outcome

end Sys2Proof.Machine
end

