-- ==== Sys2Proof/Machine/Step.lean ====
section
/-! DEFINITION. One step of the PE (41_helper_functions.md R163) and placing a word for it. -/

namespace Sys2Proof.Machine

/-- One step (60_exceptions.md R190): the instruction at the pc is performed, or the outcome that comes instead of one. -/
def step (s : State) : Host.Outcome State Fault Refusal :=
  match frontEnd s with
  | .ok i => perform i s
  | .error outcome => outcome

/-- The state with an opcode-table word placed where `step` fetches next (log 6). -/
def State.withFetchWord (s : State) (nbits w : Nat) : State := placeWord s nbits w

end Sys2Proof.Machine
end

