-- ==== Sys2Proof/Machine/Assembler.lean ====
section
/-! DEFINITION. The assembler syntax: a line with its optional parts, and the encoding the rules choose for it
(30_encoding.md R73, R77, R78, R83, R87, R91 to R97). No step uses it: the machine starts from words. -/

namespace Sys2Proof.Machine

/-- `<q>`: `.N` a 16-bit encoding, `.W` a 32-bit one (R92). -/
inductive AsmWidth where
  | narrow | wide
  deriving DecidableEq, Repr

/-- The shift a line writes after `<Rm>`: `<shift> #<amount>`, or `RRX` (R73, R87). -/
inductive AsmShift where
  | lsl (amount : Nat)
  | lsr (amount : Nat)
  | asr (amount : Nat)
  | ror (amount : Nat)
  | rrx
  deriving DecidableEq, Repr

/-- A line `ADD{S}{<c>}{<q>} {<Rd>, }<Rn>, <Rm>{, <shift>}` (R91); T2's `<Rdn>` written once is an omitted
`<Rd>` (R96). -/
structure AsmLine where
  setflags : Bool
  cond : Option (BitVec 4)
  width : Option AsmWidth
  rd : Option RegNum
  rn : RegNum
  rm : RegNum
  shift : Option AsmShift
  deriving DecidableEq, Repr

/-- Why a line is no line of this instruction. -/
inductive AsmReject where
  /-- the SP as the first source: R91, R94 -/
  | seeAddSpPlusRegister
  /-- no syntax line fits, or only words the encodings call UNPREDICTABLE -/
  | noEncoding
  deriving DecidableEq, Repr

/-- The destination: `<Rd>`, or `<Rn>` where it is omitted (R93). -/
def AsmLine.dest (l : AsmLine) : RegNum := l.rd.getD l.rn

/-- The condition: `<c>`, or AL where it is omitted (R92). -/
def AsmLine.condition (l : AsmLine) : BitVec 4 := l.cond.getD 14#4

/-- The three registers are R0 to R7, which a T1 word can hold (30_encoding.md R76). -/
def AsmLine.allLow (l : AsmLine) : Bool := decide (l.dest.toNat < 8 ∧ l.rn.toNat < 8 ∧ l.rm.toNat < 8)

/-- The amount field and stype of a written shift: the amount modulo 32, in its range (R87). -/
def AsmShift.fields : AsmShift → Option (BitVec 5 × BitVec 2)
  | .lsl k => if 1 ≤ k ∧ k ≤ 31 then some (BitVec.ofNat 5 k, 0) else none
  | .lsr k => if 1 ≤ k ∧ k ≤ 32 then some (BitVec.ofNat 5 k, 1) else none
  | .asr k => if 1 ≤ k ∧ k ≤ 32 then some (BitVec.ofNat 5 k, 2) else none
  | .ror k => if 1 ≤ k ∧ k ≤ 31 then some (BitVec.ofNat 5 k, 3) else none
  | .rrx => some (0, 3)

/-- The fields of the line's shift operand; none written is LSL by 0 (R87). -/
def AsmLine.shiftFields (l : AsmLine) : Option (BitVec 5 × BitVec 2) :=
  match l.shift with
  | none => some (0, 0)
  | some sh => sh.fields

/-- The A1 row of the fields (R73). -/
def rowA1 (setflags : Bool) (cond rn rd : RegNum) (imm5 : BitVec 5) (stype : BitVec 2) (rm : RegNum) : Instr :=
  match setflags, decide (isRrxPattern imm5 stype) with
  | false, true => .addRrxA1 cond rn rd rm
  | false, false => .addShiftA1 cond rn rd imm5 stype rm
  | true, true => .addsRrxA1 cond rn rd rm
  | true, false => .addsShiftA1 cond rn rd imm5 stype rm

/-- The T3 row of the fields, its (0) bit 0 (R83). -/
def rowT3 (setflags : Bool) (rn rd : RegNum) (imm5 : BitVec 5) (stype : BitVec 2) (rm : RegNum) : Instr :=
  let imm3 := imm5.extractLsb' 2 3
  let imm2 := imm5.extractLsb' 0 2
  match setflags, decide (isRrxPattern imm5 stype) with
  | false, true => .addRrxT3 0 rn rd rm
  | false, false => .addShiftT3 0 rn imm3 rd imm2 stype rm
  | true, true => .addsRrxT3 0 rn rd rm
  | true, false => .addsShiftT3 0 rn imm3 rd imm2 stype rm

/-- Assembling for A32 state: encoding A1, which has no 16-bit form (R91 to R95). -/
def assembleA32 (l : AsmLine) : Except AsmReject Instr :=
  if l.rn = 13#4 then .error .seeAddSpPlusRegister
  else if l.width = some .narrow ∨ l.condition = 15#4 then .error .noEncoding
  else
    match l.shiftFields with
    | none => .error .noEncoding
    | some (imm5, stype) => .ok (rowA1 l.setflags l.condition l.rn l.dest imm5 stype l.rm)

/-- T2 for `<Rdn>` and `<Rm>`, where the word is this instruction and not UNPREDICTABLE in the IT state
(R79, R80). -/
def rowT2 (it : BitVec 8) (rdn rm : RegNum) : Option Instr :=
  if rdn = 13#4 ∨ rm = 13#4 ∨ (rdn = 15#4 ∧ (rm = 15#4 ∨ (inITBlock it = true ∧ lastInITBlock it = false))) then none
  else some (.addT2 (rdn.extractLsb' 3 1) rm (rdn.extractLsb' 0 3))

/-- The 16-bit encoding of a line, if it has one (R97): outside an IT block ADDS with low registers is T1 (a, d);
inside one ADD with `<Rd>` written and low registers is T1 (b, e); ADD with `<Rd>` equal to `<Rn>` is T2 (c); inside
an IT block `ADD<c> <Rd>, <Rn>, <Rd>` is T2 with the sources exchanged (f). -/
def assembleNarrow (it : BitVec 8) (l : AsmLine) : Option Instr :=
  if l.shift.isSome then none
  else if l.setflags then
    if inITBlock it = false ∧ l.cond = none ∧ l.allLow = true then
      some (.addsT1 (l.rm.setWidth 3) (l.rn.setWidth 3) (l.dest.setWidth 3))
    else none
  else if inITBlock it = true ∧ l.rd.isSome ∧ l.allLow = true then
    some (.addT1 (l.rm.setWidth 3) (l.rn.setWidth 3) (l.dest.setWidth 3))
  else if l.dest = l.rn then rowT2 it l.rn l.rm
  else if inITBlock it = true ∧ l.dest = l.rm then rowT2 it l.rm l.rn
  else none

/-- The 32-bit encoding of a line, if it has one: T3 with no PC operand (R83, R85, R127). -/
def assembleWide (l : AsmLine) : Option Instr :=
  if l.dest = 15#4 ∨ l.rn = 15#4 ∨ l.rm = 15#4 then none
  else l.shiftFields.map fun (imm5, stype) => rowT3 l.setflags l.rn l.dest imm5 stype l.rm

/-- Assembling for T32 state in an IT state: the condition agrees with the block's (R92), `<q>` limits the width,
and a 16-bit encoding is preferred (R97). -/
def assembleT32 (it : BitVec 8) (l : AsmLine) : Except AsmReject Instr :=
  let inForce : BitVec 4 := if inITBlock it then it.extractLsb' 4 4 else 14#4
  let chosen :=
    match l.width with
    | some .narrow => assembleNarrow it l
    | some .wide => assembleWide l
    | none => (assembleNarrow it l).or (assembleWide l)
  if l.rn = 13#4 then .error .seeAddSpPlusRegister
  else if l.condition ≠ inForce then .error .noEncoding
  else
    match chosen with
    | none => .error .noEncoding
    | some i => .ok i

end Sys2Proof.Machine
end

