-- ==== Sys2Proof/Safety.lean ====
section
/-! DEFINITION. What counts as a legal state and an ordinary instruction, in the terms the claims use. -/

namespace Sys2Proof.Machine

/-- PSTATE.IT is legal: zero in A32 state, and in T32 state zero or inside a block (10_state.md R31,
70_reset_and_hazards.md R220). -/
def State.itLegal (s : State) : Prop :=
  s.pstate.it = 0 ∨ (s.pstate.t = true ∧ inITBlock s.pstate.it = true)

/-- The exception vector bases are word-aligned, so that a vector is an aligned address. -/
def State.basesAligned (s : State) : Prop := s.vbar.extractLsb' 0 2 = 0 ∧ s.hvbar.extractLsb' 0 2 = 0

/-- The invariant every step keeps: memory in its canonical form, the pc even (10_state.md R27), the vector bases
aligned. -/
def State.sound (s : State) : Prop := Memory.wf s.mem ∧ s.pc.getLsbD 0 = false ∧ s.basesAligned

/-- The destination register's number. -/
def destination : Instr → RegNum
  | .addRrxA1 _ _ rd _ | .addShiftA1 _ _ rd _ _ _ | .addsRrxA1 _ _ rd _ | .addsShiftA1 _ _ rd _ _ _ => rd
  | .addsT1 _ _ rd | .addT1 _ _ rd => lowReg rd
  | .addT2 dn _ rdn => regDnRdn dn rdn
  | .addRrxT3 _ _ rd _ | .addShiftT3 _ _ _ rd _ _ _ | .addsRrxT3 _ _ rd _ | .addsShiftT3 _ _ _ rd _ _ _ => rd

/-- The ADDS rows. -/
def setsFlags : Instr → Bool
  | .addsRrxA1 .. | .addsShiftA1 .. | .addsT1 .. | .addsRrxT3 .. | .addsShiftT3 .. => true
  | .addRrxA1 .. | .addShiftA1 .. | .addT1 .. | .addT2 .. | .addRrxT3 .. | .addShiftT3 .. => false

/-- Length in bytes. -/
def lengthInBytes : Instr → Word
  | .addsT1 .. | .addT1 .. | .addT2 .. => 2
  | .addRrxA1 .. | .addShiftA1 .. | .addsRrxA1 .. | .addsShiftA1 .. | .addRrxT3 .. | .addShiftT3 .. | .addsRrxT3 ..
  | .addsShiftT3 .. => 4

/-- The exception-return form: A1 ADDS with the PC as destination (40_add_adds_register.md R114). -/
def isExceptionReturn : Instr → Bool
  | .addsRrxA1 _ _ rd _ | .addsShiftA1 _ _ rd _ _ _ => rd == 15#4
  | .addRrxA1 .. | .addShiftA1 .. | .addsT1 .. | .addT1 .. | .addT2 .. | .addRrxT3 .. | .addShiftT3 ..
  | .addsRrxT3 .. | .addsShiftT3 .. => false

/-- A T3 word that is UNPREDICTABLE: a register field 1111, or its (0) bit set (30_encoding.md R82, R85). -/
def unpredictableT3 (sbz : BitVec 1) (rn rd rm : RegNum) : Bool := sbz == 1#1 || rd == 15#4 || rn == 15#4 || rm == 15#4

/-- The source operands an instruction's word names (30_encoding.md R74, R77, R79, R84): the two source registers, and
the amount field and stype of the shift; T1 and T2 shift by nothing. -/
def operandFields : Instr → RegNum × RegNum × BitVec 5 × BitVec 2
  | .addRrxA1 _ rn _ rm | .addsRrxA1 _ rn _ rm | .addRrxT3 _ rn _ rm | .addsRrxT3 _ rn _ rm => (rn, rm, 0, 3)
  | .addShiftA1 _ rn _ imm5 stype rm | .addsShiftA1 _ rn _ imm5 stype rm => (rn, rm, imm5, stype)
  | .addsT1 rm rn _ | .addT1 rm rn _ => (rn.setWidth 4, rm.setWidth 4, 0, 0)
  | .addT2 dn rm rdn => (regDnRdn dn rdn, rm, 0, 0)
  | .addShiftT3 _ rn imm3 _ imm2 stype rm | .addsShiftT3 _ rn imm3 _ imm2 stype rm =>
      (rn, rm, amountField imm3 imm2, stype)

/-- The condition field, which only an A1 word has (R72, R92). -/
def condField : Instr → Option (BitVec 4)
  | .addRrxA1 cond .. | .addShiftA1 cond .. | .addsRrxA1 cond .. | .addsShiftA1 cond .. => some cond
  | .addsT1 .. | .addT1 .. | .addT2 .. | .addRrxT3 .. | .addShiftT3 .. | .addsRrxT3 .. | .addsShiftT3 .. => none

/-- The spec calls the word UNPREDICTABLE in an IT state (30_encoding.md R80, R82, R85). -/
def isUnpredictable (it : BitVec 8) : Instr → Bool
  | .addT2 dn rm rdn =>
      regDnRdn dn rdn == 15#4 && (rm == 15#4 || (inITBlock it && !lastInITBlock it))
  | .addRrxT3 sbz rn rd rm | .addShiftT3 sbz rn _ rd _ _ rm | .addsRrxT3 sbz rn rd rm
  | .addsShiftT3 sbz rn _ rd _ _ rm => unpredictableT3 sbz rn rd rm
  | .addRrxA1 .. | .addShiftA1 .. | .addsRrxA1 .. | .addsShiftA1 .. | .addsT1 .. | .addT1 .. => false

/-- Neither an exception return nor UNPREDICTABLE: what the Operation does with it is fixed by the page. -/
def ordinary (i : Instr) (s : State) : Prop :=
  isExceptionReturn i = false ∧ isUnpredictable s.pstate.it i = false

end Sys2Proof.Machine
end

