-- ==== Sys2Proof/Certificates/Slice0/Obligations.lean ====
section
/-! DEFINITION. The statements for the provers, from the numbered rules of spec/. The names under Sys2Proof.Claims
say in the rules' own terms what the statements compare the model with. A statement about `exec` is about an instruction's
effect; where the rules say `raise Undefined` or `refuse`, `step` stops instead, which StepRunsDecoded states (log 32). -/

namespace Sys2Proof.Claims
open Sys2Proof.Machine

/-- The amount of LSR and ASR: the field, with 00000 standing for 32 (30_encoding.md R86, R87). -/
def amount32 (imm5 : BitVec 5) : Nat := if imm5 = 0 then 32 else imm5.toNat

/-- The shifted operand by the formulas of 41_helper_functions.md R150 to R154. -/
def shifted (stype : BitVec 2) (imm5 : BitVec 5) (value : Word) (c : Bool) : Word :=
  if stype = 0 then BitVec.ofNat 32 (value.toNat * 2 ^ imm5.toNat)
  else if stype = 1 then BitVec.ofNat 32 (value.toNat / 2 ^ amount32 imm5)
  else if stype = 2 then BitVec.ofInt 32 (value.toInt / 2 ^ amount32 imm5)
  else if imm5 = 0 then BitVec.ofNat 32 (c.toNat * 2 ^ 31 + value.toNat / 2)
  else BitVec.ofNat 32 (value.toNat / 2 ^ imm5.toNat + value.toNat * 2 ^ (32 - imm5.toNat))

/-- PSTATE with the flags of x + y in the closed form of 40_add_adds_register.md R111. -/
def withSumFlags (x y : Word) (p : Pstate) : Pstate :=
  { p with
    n := (x + y).getLsbD 31
    z := decide (x + y = 0)
    c := decide (2 ^ 32 ≤ x.toNat + y.toNat)
    v := decide (x.toInt + y.toInt < -2 ^ 31 ∨ 2 ^ 31 ≤ x.toInt + y.toInt) }

/-- The IT state after a T32 instruction (41_helper_functions.md R146), which leaves 0 at 0. -/
def nextIT (it : BitVec 8) : BitVec 8 :=
  if it.extractLsb' 0 3 = 0 then 0 else it.extractLsb' 5 3 ++ (it.extractLsb' 0 5 <<< 1)

/-- A T32 instruction executes: outside an IT block always, inside one when its condition holds (R142, R143). -/
def passesT32 (p : Pstate) : Prop :=
  p.it = 0 ∨ (inITBlock p.it = true ∧ conditionHolds (p.it.extractLsb' 4 4) p = true)

/-- A T32 instruction is skipped: inside an IT block with a condition that fails (R112, R142). -/
def failsT32 (p : Pstate) : Prop :=
  inITBlock p.it = true ∧ conditionHolds (p.it.extractLsb' 4 4) p = false

/-- The state after an instruction that wrote `v` to `rd` and did not branch, with PSTATE `p`. -/
def written (s : State) (rd : RegNum) (v : Word) (len : Word) (p : Pstate) : State :=
  { s.writeReg rd v with pc := s.pc + len, pstate := p }

/-- The state after a T32 instruction that changed nothing but the pc and the IT state. -/
def skippedT32 (s : State) (len : Word) : State :=
  { s with pc := s.pc + len, pstate := { s.pstate with it := nextIT s.pstate.it } }

/-- The state after a T32 branch to an even target. -/
def branchedT32 (s : State) (target : Word) : State :=
  { s with pc := target &&& 0xFFFFFFFE#32, pstate := { s.pstate with it := nextIT s.pstate.it } }

/-- Registers R0 to R14 but the destination's are unchanged. -/
def othersUnchanged (s t : State) (rd : RegNum) : Prop :=
  ∀ k : Fin 36, k ≠ gprSlot s.pstate.mode rd → t.gpr[k] = s.gpr[k]

/-- Every byte of memory reads as before. -/
def memoryUnchanged (s t : State) : Prop := ∀ a : Word, t.readByte a = s.readByte a

/-- The registers no instruction writes: the vector bases, the control bits, the security state. -/
def controlsUnchanged (s t : State) : Prop :=
  t.vbar = s.vbar ∧ t.hvbar = s.hvbar ∧ t.sctlrTE = s.sctlrTE ∧ t.sctlrEE = s.sctlrEE ∧ t.sctlrV = s.sctlrV ∧
    t.hsctlrTE = s.hsctlrTE ∧ t.hsctlrEE = s.hsctlrEE ∧ t.hcrTGE = s.hcrTGE ∧ t.secure = s.secure

/-- The registers exceptions and returns write. -/
def exceptionRegistersUnchanged (s t : State) : Prop :=
  t.spsrFiq = s.spsrFiq ∧ t.spsrIrq = s.spsrIrq ∧ t.spsrSvc = s.spsrSvc ∧ t.spsrMon = s.spsrMon ∧
    t.spsrAbt = s.spsrAbt ∧ t.spsrHyp = s.spsrHyp ∧ t.spsrUnd = s.spsrUnd ∧ t.elrHyp = s.elrHyp ∧
    t.hsrEC = s.hsrEC ∧ t.hsrRest = s.hsrRest ∧ t.exclusiveLocal = s.exclusiveLocal ∧
    t.eventRegister = s.eventRegister

/-- The registers an exception saves into, and HSR: the SPSRs, ELR_hyp and HSR are unchanged (10_state.md R33). -/
def savedRegistersUnchanged (s t : State) : Prop :=
  t.spsrFiq = s.spsrFiq ∧ t.spsrIrq = s.spsrIrq ∧ t.spsrSvc = s.spsrSvc ∧ t.spsrMon = s.spsrMon ∧
    t.spsrAbt = s.spsrAbt ∧ t.spsrHyp = s.spsrHyp ∧ t.spsrUnd = s.spsrUnd ∧ t.elrHyp = s.elrHyp ∧
    t.hsrEC = s.hsrEC ∧ t.hsrRest = s.hsrRest

/-- Every field of PSTATE but N, Z, C, V, IT and T is unchanged. -/
def restOfPstateUnchanged (p q : Pstate) : Prop :=
  q.q = p.q ∧ q.ssbs = p.ssbs ∧ q.pan = p.pan ∧ q.dit = p.dit ∧ q.il = p.il ∧ q.ge = p.ge ∧ q.e = p.e ∧
    q.a = p.a ∧ q.i = p.i ∧ q.f = p.f ∧ q.mode = p.mode

/-- The four condition flags are unchanged. -/
def flagsUnchanged (p q : Pstate) : Prop := q.n = p.n ∧ q.z = p.z ∧ q.c = p.c ∧ q.v = p.v

/-- The Undefined Instruction exception taken to Undefined mode, as 60_exceptions.md R199 lists it; what R199 does not
list is kept, the saved registers but SPSR_und and the registers but LR_und among it (logs 11, 31). -/
def undefinedEntry (s t : State) : Prop :=
  t.pstate = { s.pstate with mode := .undef, i := true, it := 0, t := s.sctlrTE, e := s.sctlrEE, il := false } ∧
    t.pc = (if s.sctlrV then 0xFFFF0000 else s.vbar) + 4 ∧ t.spsrUnd = s.pstate.image ∧
    t.gpr = s.gpr.set (gprSlot .undef 14) (s.pc + (if s.pstate.t then 2 else 4)) ∧
    savedRegistersUnchanged { s with spsrUnd := t.spsrUnd } t ∧ t.exclusiveLocal = s.exclusiveLocal ∧
    t.eventRegister = s.eventRegister

/-- An exception taken to Hyp mode at an offset from HVBAR, as R194 and R199 list it; what they do not list is kept,
every general register and every SPSR but SPSR_hyp among it (logs 12, 31). -/
def hypEntry (offset : Word) (s t : State) : Prop :=
  t.pstate = { s.pstate with mode := .hyp, it := 0, t := s.hsctlrTE, e := s.hsctlrEE, il := false } ∧
    t.pc = s.hvbar + offset ∧ t.elrHyp = s.pc ∧ t.spsrHyp = s.pstate.image ∧ t.gpr = s.gpr ∧
    savedRegistersUnchanged
      { s with elrHyp := t.elrHyp, spsrHyp := t.spsrHyp, hsrEC := t.hsrEC, hsrRest := t.hsrRest } t ∧
    t.exclusiveLocal = s.exclusiveLocal ∧ t.eventRegister = s.eventRegister

/-- An exception reported as an Undefined Instruction exception (R199): from Hyp mode to Hyp mode at offset 4; from
Non-secure User mode with Hyp mode implemented and HCR.TGE set to Hyp mode at offset 0x14 (log 13); otherwise to
Undefined mode. -/
def exceptionTaken (s t : State) : Prop :=
  if s.pstate.mode = .hyp then hypEntry 4 s t
  else if s.pstate.mode = .user ∧ s.secure = false ∧ Config.hasHyp = true ∧ s.hcrTGE = true then hypEntry 0x14 s t
  else undefinedEntry s t

/-- What an UNDEFINED instruction does, in every mode and instruction set (R191, R194, R199; logs 11 to 14, 31): that
exception, with HSR.EC 0 on an entry to Hyp mode; no byte of memory and no control changes. -/
def undefinedTaken (s t : State) : Prop :=
  exceptionTaken s t ∧ (t.pstate.mode = .hyp → t.hsrEC = 0) ∧ memoryUnchanged s t ∧ controlsUnchanged s t

/-- What 93_implementation_defined.md allows every UNPREDICTABLE word: the Undefined Instruction exception, a NOP
of its length, or, for a behaviour it does not list, the model's stop. -/
def undefinedNopOrStop (case : Config.UnpredCase) (len : Word) (s : State) (r : Result) : Prop :=
  (∃ t, r = .next t ∧ undefinedTaken s t) ∨
    r = .next (skippedT32 { s with fresh := s.fresh + 1 } len) ∨ r = .refused (.unpredictable case)

/-- The Exception level of a mode (10_state.md R32; log 14): User mode EL0, Hyp mode EL2, Monitor mode EL3, the rest EL1,
or EL3 in Secure state where EL3 uses AArch32. -/
def level (secure : Bool) (m : Mode) : Nat :=
  if m = .user then 0 else if m = .hyp then 2 else if m = .monitor then 3
  else if secure = true ∧ Config.el3UsesAArch32 = true then 3 else 1

/-- The state with its registers seen from another mode. -/
def seenFrom (m : Mode) (s : State) : State := { s with pstate := { s.pstate with mode := m } }

/-- Register `r` of two modes is one register (10_state.md R23; log 8): R0 to R7 always, R8 to R12 unless exactly one of
the modes is FIQ mode, R13 and R14 in the same mode only. -/
abbrev oneRegister (r : RegNum) (m m' : Mode) : Prop :=
  r.toNat ≤ 7 ∨ (r.toNat ≤ 12 ∧ (m = .fiq ↔ m' = .fiq)) ∨ m = m'

/-- The four variants of A1 as one family of terms; `s` is the S bit. -/
def a1 (s : Bool) (rrx : Bool) (cond rn rd : RegNum) (imm5 : BitVec 5) (stype : BitVec 2) (rm : RegNum) : Instr :=
  match s, rrx with
  | false, true => .addRrxA1 cond rn rd rm
  | false, false => .addShiftA1 cond rn rd imm5 stype rm
  | true, true => .addsRrxA1 cond rn rd rm
  | true, false => .addsShiftA1 cond rn rd imm5 stype rm

/-- The four variants of T3 as one family of terms; `s` is the S bit. -/
def t3 (s : Bool) (rrx : Bool) (sbz : BitVec 1) (rn : RegNum) (imm3 : BitVec 3) (rd : RegNum) (imm2 stype : BitVec 2)
    (rm : RegNum) : Instr :=
  match s, rrx with
  | false, true => .addRrxT3 sbz rn rd rm
  | false, false => .addShiftT3 sbz rn imm3 rd imm2 stype rm
  | true, true => .addsRrxT3 sbz rn rd rm
  | true, false => .addsShiftT3 sbz rn imm3 rd imm2 stype rm

/-- The shifted operand of a variant: the rotate right with extend variants use stype 11 and amount 00000. -/
def operand (rrx : Bool) (stype : BitVec 2) (imm5 : BitVec 5) (value : Word) (c : Bool) : Word :=
  if rrx then shifted 3 0 value c else shifted stype imm5 value c

/-- The amount field and stype a line's shift is written with (R87): the amount modulo 32; no shift is LSL by 0. -/
def writtenShift : Option AsmShift → BitVec 5 × BitVec 2
  | none => (0, 0)
  | some (.lsl k) => (BitVec.ofNat 5 (k % 32), 0)
  | some (.lsr k) => (BitVec.ofNat 5 (k % 32), 1)
  | some (.asr k) => (BitVec.ofNat 5 (k % 32), 2)
  | some (.ror k) => (BitVec.ofNat 5 (k % 32), 3)
  | some .rrx => (0, 3)

/-- The amount of a line's shift is in R87's range. -/
def amountInRange : Option AsmShift → Prop
  | some (.lsl k) | some (.ror k) => 1 ≤ k ∧ k ≤ 31
  | some (.lsr k) | some (.asr k) => 1 ≤ k ∧ k ≤ 32
  | none | some .rrx => True

/-- The line's condition is the one in force (R92): the IT block's, or AL outside one. -/
def conditionAgrees (it : BitVec 8) (l : AsmLine) : Prop :=
  l.cond.getD 14#4 = if inITBlock it then it.extractLsb' 4 4 else 14#4

/-- The sum an instruction's word names, by the shift formulas (R110, R150 to R154). -/
def sumOf (i : Instr) (s : State) : Word :=
  let (rn, rm, imm5, stype) := operandFields i
  s.readReg rn + shifted stype imm5 (s.readReg rm) s.pstate.c

/-- An A1 word whose condition passes (R142, R143). -/
def passesA1 (i : Instr) (p : Pstate) : Prop := ∃ cond, condField i = some cond ∧ conditionHolds cond p = true

/-- The exception return that the rules do not let through: its condition passes, in a mode among `modes` (R114). -/
def returnIn (modes : List Mode) (i : Instr) (s : State) : Prop :=
  isExceptionReturn i = true ∧ passesA1 i s.pstate ∧ s.pstate.mode ∈ modes

/-- An A1 ADD to the PC whose condition passes and whose target has bits[1:0] 10 (R53, R117 (f), R157). -/
def branchesToTen (i : Instr) (s : State) : Prop :=
  passesA1 i s.pstate ∧ destination i = 15#4 ∧ setsFlags i = false ∧ (sumOf i s).extractLsb' 0 2 = 2

/-- A T32 instruction in an IT state that is neither zero nor inside a block (R142). -/
def malformedIT (i : Instr) (p : Pstate) : Prop := i.isT32 = true ∧ p.it ≠ 0 ∧ inITBlock p.it = false

/-- No shift is written, and `.W` is not: what a 16-bit encoding needs (R97). -/
def narrowForm (l : AsmLine) : Prop := l.shift = none ∧ l.width ≠ some .wide

/-- All three registers are R0 to R7 (R76). -/
def lowRegisters (l : AsmLine) : Prop := l.dest.toNat < 8 ∧ l.rn.toNat < 8 ∧ l.rm.toNat < 8

/-- T2 of a destination and second source, which is neither ADD (SP plus register) nor UNPREDICTABLE (R79, R80). -/
def t2Allows (it : BitVec 8) (rdn rm : RegNum) : Prop :=
  rdn ≠ 13#4 ∧ rm ≠ 13#4 ∧ (rdn = 15#4 → rm ≠ 15#4 ∧ (inITBlock it = true → lastInITBlock it = true))

/-- The T2 instruction of a destination and second source. -/
def t2 (rdn rm : RegNum) : Instr := .addT2 (rdn.extractLsb' 3 1) rm (rdn.extractLsb' 0 3)

/-- The T1 operand fields of a line: Rm, Rn, Rd. -/
def t1Fields (f : BitVec 3 → BitVec 3 → BitVec 3 → Instr) (l : AsmLine) : Instr :=
  f (l.rm.setWidth 3) (l.rn.setWidth 3) (l.dest.setWidth 3)

/-- R97 (f): inside an IT block, `ADD<c> <Rd>, <Rn>, <Rd>` without `.W`, which T2 takes with its sources exchanged. -/
def exchanged (it : BitVec 8) (l : AsmLine) (i : Instr) : Prop :=
  inITBlock it = true ∧ l.setflags = false ∧ l.width ≠ some .wide ∧ l.shift = none ∧ l.dest = l.rm ∧
    ∃ dn rdn, i = .addT2 dn l.rn rdn ∧ operandFields i = (l.rm, l.rn, 0, 0)

end Sys2Proof.Claims

open Sys2Proof Sys2Proof.Machine Sys2Proof.Claims

/-! ## Encodings -/

/-- Words written out from the layouts of 30_encoding.md R71, R76, R78, R81 decode to what they spell (R71, R76,
R78, R81 and their worked examples). -/
def Obligations.SpecWordsDecode : Prop :=
  decodeBits false (.a32 0xE0843185) = .ok (.addShiftA1 14 4 3 3 0 5) ∧
  decodeBits false (.a32 0xE0943065) = .ok (.addsRrxA1 14 4 3 5) ∧
  decodeBits false (.t16 0x1888) = .ok (.addsT1 2 1 0) ∧
  decodeBits true (.t16 0x1888) = .ok (.addT1 2 1 0) ∧
  decodeBits false (.t16 0x4488) = .ok (.addT2 1 1 0) ∧
  decodeBits false (.t32 0xEB04 0x4365) = .ok (.addShiftT3 0 4 4 3 1 2 5) ∧
  decodeBits false (.t32 0xEB14 0x0335) = .ok (.addsRrxT3 0 4 3 5)

/-- Decoding the encoding of any well-formed instruction gives it back, in the IT context its row needs. -/
def Obligations.DecodeOfEncode : Prop :=
  ∀ (i : Instr) (inIT : Bool), WellFormed i → i.fitsContext inIT = true → decodeBits inIT (encode i) = .ok i

/-- Every word the decoder accepts is the encoding of the one well-formed instruction it answers. -/
def Obligations.EncodeOfDecode : Prop :=
  ∀ (b : InstrBits) (inIT : Bool) (i : Instr), decodeBits inIT b = .ok i →
    WellFormed i ∧ i.fitsContext inIT = true ∧ encode i = b

/-- Decoding the bytes of an encoded well-formed instruction, in memory order, gives it back with the bytes that
follow it. -/
def Obligations.DecodeOfEncodedBytes : Prop :=
  ∀ (i : Instr) (inIT : Bool) (rest : List Byte), WellFormed i → i.fitsContext inIT = true →
    decode i.isT32 inIT ((encode i).bytes ++ rest) = .ok (i, rest)

/-- R90: A1 and T2 words that name the SP where R75 and R79 redirect it are ADD (SP plus register); T3 words are
tested for CMN first (R84). -/
def Obligations.RedirectedWordsRejected : Prop :=
  (∀ (w : Word) (inIT : Bool), w.extractLsb' 21 7 = 0b0000100 → w.getLsbD 4 = false → w.extractLsb' 28 4 ≠ 15#4 →
      w.extractLsb' 16 4 = 13 → decodeBits inIT (.a32 w) = .error .seeAddSpPlusRegister) ∧
  (∀ (h : Half) (inIT : Bool), h.extractLsb' 8 8 = 0b01000100 →
      ((h.getLsbD 7 = true ∧ h.extractLsb' 0 3 = 0b101) ∨ h.extractLsb' 3 4 = 13) →
      decodeBits inIT (.t16 h) = .error .seeAddSpPlusRegister) ∧
  (∀ (hw1 hw2 : Half) (inIT : Bool), hw1.extractLsb' 5 11 = 0b11101011000 →
      hw1.getLsbD 4 = true → hw2.extractLsb' 8 4 = 15#4 →
      decodeBits inIT (.t32 hw1 hw2) = .error .seeCmnRegister) ∧
  (∀ (hw1 hw2 : Half) (inIT : Bool), hw1.extractLsb' 5 11 = 0b11101011000 →
      ¬ (hw1.getLsbD 4 = true ∧ hw2.extractLsb' 8 4 = 15#4) → hw1.extractLsb' 0 4 = 13 →
      decodeBits inIT (.t32 hw1 hw2) = .error .seeAddSpPlusRegister)

/-- Words, halfwords and pairs of halfwords outside the fixed bits (R71, R76, R78, R81), and A1 words with cond 1111 (R72),
are not ADD, ADDS (register). -/
def Obligations.OtherWordsRejected : Prop :=
  (∀ (w : Word) (inIT : Bool),
      (w.extractLsb' 21 7 ≠ 0b0000100 ∨ w.getLsbD 4 = true ∨ w.extractLsb' 28 4 = 15#4) →
      decodeBits inIT (.a32 w) = .error .notAddRegister) ∧
  (∀ (h : Half) (inIT : Bool), h.extractLsb' 9 7 ≠ 0b0001100 → h.extractLsb' 8 8 ≠ 0b01000100 →
      decodeBits inIT (.t16 h) = .error .notAddRegister) ∧
  (∀ (hw1 hw2 : Half) (inIT : Bool), hw1.extractLsb' 5 11 ≠ 0b11101011000 →
      decodeBits inIT (.t32 hw1 hw2) = .error .notAddRegister)

/-! ## The sum, the shifts and the condition -/

/-- R111: the sum wraps, and N, Z, C, V are the sign, zero, unsigned and signed overflow of it, the last in both
forms the rule gives. -/
def Obligations.SumAndFlagsClosedForm : Prop :=
  ∀ (x y : Word),
    (addWithCarry x y false).1.toNat = (x.toNat + y.toNat) % 2 ^ 32 ∧
    (addWithCarry x y false).2.n = (addWithCarry x y false).1.getLsbD 31 ∧
    ((addWithCarry x y false).2.z = true ↔ (addWithCarry x y false).1 = 0) ∧
    ((addWithCarry x y false).2.c = true ↔ 2 ^ 32 ≤ x.toNat + y.toNat) ∧
    ((addWithCarry x y false).2.v = true ↔ x.toInt + y.toInt < -2 ^ 31 ∨ 2 ^ 31 - 1 < x.toInt + y.toInt) ∧
    ((addWithCarry x y false).2.v = true ↔
      x.getLsbD 31 = y.getLsbD 31 ∧ (addWithCarry x y false).1.getLsbD 31 ≠ x.getLsbD 31)

/-- R150: LSL by 1 to 31 multiplies by a power of two modulo 2^32. -/
def Obligations.LogicalShiftLeftMultiplies : Prop :=
  ∀ (v : Word) (k : Nat) (c : Bool), 1 ≤ k → k ≤ 31 → (shift v .lsl k c).toNat = v.toNat * 2 ^ k % 2 ^ 32

/-- R151: LSR by 1 to 32 divides the unsigned value, rounding down; by 32 it gives 0. -/
def Obligations.LogicalShiftRightDivides : Prop :=
  ∀ (v : Word) (k : Nat) (c : Bool), 1 ≤ k → k ≤ 32 →
    (shift v .lsr k c).toNat = v.toNat / 2 ^ k ∧ (k = 32 → shift v .lsr k c = 0)

/-- R152: ASR by 1 to 32 divides the signed value, rounding toward minus infinity; by 32 it gives the sign in
every bit. -/
def Obligations.ArithmeticShiftRightDivides : Prop :=
  ∀ (v : Word) (k : Nat) (c : Bool), 1 ≤ k → k ≤ 32 →
    shift v .asr k c = BitVec.ofInt 32 (v.toInt / 2 ^ k) ∧
    (k = 32 → shift v .asr k c = if v.getLsbD 31 then 0xFFFFFFFF else 0)

/-- R153: bit i of ROR by 1 to 31 is bit (i + k) mod 32 of the value, and it is LSR OR LSL. -/
def Obligations.RotateRightMovesBits : Prop :=
  ∀ (v : Word) (k : Nat) (c : Bool), 1 ≤ k → k ≤ 31 →
    shift v .ror k c = shift v .lsr k c ||| shift v .lsl (32 - k) c ∧
    ∀ i : Nat, i < 32 → (shift v .ror k c).getLsbD i = v.getLsbD ((i + k) % 32)

/-- R154: RRX puts the carry in bit 31 and bits 31:1 of the value below it. -/
def Obligations.RotateWithExtendUsesCarry : Prop :=
  ∀ (v : Word) (c : Bool), (shift v .rrx 1 c).getLsbD 31 = c ∧
    ∀ i : Nat, i < 31 → (shift v .rrx 1 c).getLsbD i = v.getLsbD (i + 1)

/-- The shift operand of every stype and amount field is the one R86 and R87 name, in R150 to R154's formulas. -/
def Obligations.ImmediateShiftOperand : Prop :=
  ∀ (stype : BitVec 2) (imm5 : BitVec 5) (v : Word) (c : Bool),
    shift v (decodeImmShift stype imm5).1 (decodeImmShift stype imm5).2 c = shifted stype imm5 v c

/-- R143: when each condition passes; the odd ones but 1111 are the negations of the even ones. -/
def Obligations.ConditionTable : Prop :=
  ∀ p : Pstate,
    (conditionHolds 0 p = true ↔ p.z = true) ∧ (conditionHolds 1 p = true ↔ p.z = false) ∧
    (conditionHolds 2 p = true ↔ p.c = true) ∧ (conditionHolds 3 p = true ↔ p.c = false) ∧
    (conditionHolds 4 p = true ↔ p.n = true) ∧ (conditionHolds 5 p = true ↔ p.n = false) ∧
    (conditionHolds 6 p = true ↔ p.v = true) ∧ (conditionHolds 7 p = true ↔ p.v = false) ∧
    (conditionHolds 8 p = true ↔ p.c = true ∧ p.z = false) ∧ (conditionHolds 9 p = true ↔ p.c = false ∨ p.z = true) ∧
    (conditionHolds 10 p = true ↔ p.n = p.v) ∧ (conditionHolds 11 p = true ↔ p.n ≠ p.v) ∧
    (conditionHolds 12 p = true ↔ p.z = false ∧ p.n = p.v) ∧ (conditionHolds 13 p = true ↔ p.z = true ∨ p.n ≠ p.v) ∧
    conditionHolds 14 p = true ∧ conditionHolds 15 p = true

/-! ## Encoding A1 -/

/-- A1 ADD, both variants, with a destination other than the PC: the sum goes to Rd, nothing else but the pc
changes (R110, R120, R121; the flags stay, R116). -/
def Obligations.AddA1WritesSum : Prop :=
  ∀ (rrx : Bool) (cond rn rd rm : RegNum) (imm5 : BitVec 5) (stype : BitVec 2) (s : State),
    s.pstate.t = false → conditionHolds cond s.pstate = true → rd ≠ 15#4 →
    exec (a1 false rrx cond rn rd imm5 stype rm) s =
      .next (written s rd (s.readReg rn + operand rrx stype imm5 (s.readReg rm) s.pstate.c) 4 s.pstate)

/-- A1 ADDS, both variants, with a destination other than the PC: the sum goes to Rd and all four flags take
R111's values; the C flag an RRX uses is the old one (R110, R115, R116, R122, R123). -/
def Obligations.AddsA1WritesSumAndFlags : Prop :=
  ∀ (rrx : Bool) (cond rn rd rm : RegNum) (imm5 : BitVec 5) (stype : BitVec 2) (s : State),
    s.pstate.t = false → conditionHolds cond s.pstate = true → rd ≠ 15#4 →
    exec (a1 true rrx cond rn rd imm5 stype rm) s =
      (let x := s.readReg rn
       let y := operand rrx stype imm5 (s.readReg rm) s.pstate.c
       .next (written s rd (x + y) 4 (withSumFlags x y s.pstate)))

/-- R112 for A1: a failed condition changes nothing but the pc, in every mode and for every destination. -/
def Obligations.FailedConditionSkipsA1 : Prop :=
  ∀ (sbit rrx : Bool) (cond rn rd rm : RegNum) (imm5 : BitVec 5) (stype : BitVec 2) (s : State),
    s.pstate.t = false → conditionHolds cond s.pstate = false →
    exec (a1 sbit rrx cond rn rd imm5 stype rm) s = .next { s with pc := s.pc + 4 }

/-- A1 ADD to the PC is an interworking branch (R113, R156, R157): bit 0 of the sum selects T32 state; a target
with bits[1:0] == 00 stays in A32 state; with bits[1:0] == 10 the implementation's choice `a32ForceAlignPc`
decides (log 17). Of exec:
a step refuses that target (log 32). -/
def Obligations.AddA1ToPcBranches : Prop :=
  ∀ (rrx : Bool) (cond rn rm : RegNum) (imm5 : BitVec 5) (stype : BitVec 2) (s : State),
    s.pstate.t = false → conditionHolds cond s.pstate = true →
    exec (a1 false rrx cond rn 15#4 imm5 stype rm) s =
      (let target := s.readReg rn + operand rrx stype imm5 (s.readReg rm) s.pstate.c
       if target.getLsbD 0 then
         .next { s with pc := target &&& 0xFFFFFFFE#32, pstate := { s.pstate with t := true } }
       else if target.getLsbD 1 then
         .next { s with pc := if Config.a32ForceAlignPc then target &&& 0xFFFFFFFC#32 else target }
       else .next { s with pc := target })

/-- A1 ADDS to the PC in a mode with an SPSR other than Hyp is an exception return (R114, R160, R161, R162): on a
legal return PSTATE comes from the SPSR and the pc is the sum, aligned for the restored instruction set; the
flags are the SPSR's, not the sum's. The SPSRs are only read (R33), and no general register is written (R159). IT,
SSBS, PAN and DIT have a statement of their own. The model takes the return as the rules describe it (log 9); that the
security state stays is log 14. -/
def Obligations.ExceptionReturnRestoresState : Prop :=
  ∀ (rrx : Bool) (cond rn rm : RegNum) (imm5 : BitVec 5) (stype : BitVec 2) (s : State) (spsr : Word) (m : Mode),
    conditionHolds cond s.pstate = true → s.pstate.mode ≠ .hyp → s.currentSpsr = some spsr →
    spsr.extractLsb' 0 5 = m.bits → illegalReturn spsr s = false →
    ∃ t : State, exec (a1 true rrx cond rn 15#4 imm5 stype rm) s = .next t ∧
      t.pc = (s.readReg rn + operand rrx stype imm5 (s.readReg rm) s.pstate.c) &&&
        (if spsr.getLsbD 5 then 0xFFFFFFFE#32 else 0xFFFFFFFC#32) ∧
      t.pstate.mode = m ∧ t.pstate.n = spsr.getLsbD 31 ∧ t.pstate.z = spsr.getLsbD 30 ∧
      t.pstate.c = spsr.getLsbD 29 ∧ t.pstate.v = spsr.getLsbD 28 ∧ t.pstate.q = spsr.getLsbD 27 ∧
      t.pstate.il = spsr.getLsbD 20 ∧ t.pstate.ge = spsr.extractLsb' 16 4 ∧ t.pstate.e = spsr.getLsbD 9 ∧
      t.pstate.a = spsr.getLsbD 8 ∧ t.pstate.i = spsr.getLsbD 7 ∧ t.pstate.f = spsr.getLsbD 6 ∧
      t.pstate.t = spsr.getLsbD 5 ∧ t.exclusiveLocal = false ∧ t.eventRegister = true ∧ t.gpr = s.gpr ∧
      savedRegistersUnchanged s t ∧ memoryUnchanged s t ∧ controlsUnchanged s t

/-- The IT state and the optional fields of a return, legal or illegal: IT from SPSR bits 15:10 and 26:25 where T32
state is restored and they are inside a block, else zero; SSBS, PAN, DIT from the SPSR where the feature exists (R162, logs 15, 23). -/
def Obligations.ExceptionReturnRestoresIT : Prop :=
  ∀ (rrx : Bool) (cond rn rm : RegNum) (imm5 : BitVec 5) (stype : BitVec 2) (s : State) (spsr : Word),
    conditionHolds cond s.pstate = true → s.pstate.mode ≠ .hyp → s.currentSpsr = some spsr →
    (let it : BitVec 8 := BitVec.ofNat 8 (4 * (spsr.extractLsb' 10 6).toNat + (spsr.extractLsb' 25 2).toNat)
     ∃ t : State, exec (a1 true rrx cond rn 15#4 imm5 stype rm) s = .next t ∧ t.itLegal ∧
      (t.pstate.t = true → inITBlock it = true → t.pstate.it = it) ∧
      (t.pstate.t = false ∨ inITBlock it = false → t.pstate.it = 0) ∧
      t.pstate.ssbs = (if Config.hasSsbs then spsr.getLsbD 23 else s.pstate.ssbs) ∧
      t.pstate.pan = (if Config.hasPan then spsr.getLsbD 22 else s.pstate.pan) ∧
      t.pstate.dit = (if Config.hasDit then spsr.getLsbD 21 else s.pstate.dit))

/-- An illegal return event sets PSTATE.IL, leaves the mode, restores the flags, Q, GE, E and the masks from the SPSR,
clears the exclusive monitor, sets the event register and branches (R161, R162, R195); it writes no general register
and no saved register. The instruction set is the SPSR's or A32, as the implementation chooses (log 15). IT, SSBS, PAN
and DIT stand in ExceptionReturnRestoresIT; that the security state stays is log 14. -/
def Obligations.IllegalReturnSetsIL : Prop :=
  ∀ (rrx : Bool) (cond rn rm : RegNum) (imm5 : BitVec 5) (stype : BitVec 2) (s : State) (spsr : Word),
    conditionHolds cond s.pstate = true → s.pstate.mode ≠ .hyp → s.currentSpsr = some spsr →
    illegalReturn spsr s = true →
    ∃ t : State, exec (a1 true rrx cond rn 15#4 imm5 stype rm) s = .next t ∧ t.pstate.il = true ∧
      t.pstate.mode = s.pstate.mode ∧ t.pstate.n = spsr.getLsbD 31 ∧ t.pstate.z = spsr.getLsbD 30 ∧
      t.pstate.c = spsr.getLsbD 29 ∧ t.pstate.v = spsr.getLsbD 28 ∧ t.pstate.q = spsr.getLsbD 27 ∧
      t.pstate.ge = spsr.extractLsb' 16 4 ∧ t.pstate.e = spsr.getLsbD 9 ∧ t.pstate.a = spsr.getLsbD 8 ∧
      t.pstate.i = spsr.getLsbD 7 ∧ t.pstate.f = spsr.getLsbD 6 ∧
      (t.pstate.t = spsr.getLsbD 5 ∨ t.pstate.t = false) ∧
      t.pc = (s.readReg rn + operand rrx stype imm5 (s.readReg rm) s.pstate.c) &&&
        (if t.pstate.t then 0xFFFFFFFE#32 else 0xFFFFFFFC#32) ∧
      t.exclusiveLocal = false ∧ t.eventRegister = true ∧ t.gpr = s.gpr ∧ savedRegistersUnchanged s t ∧
      memoryUnchanged s t ∧ controlsUnchanged s t

/-- R195: which returns are illegal, for a mode the SPSR names: one at a higher Exception level, Hyp mode from
Secure state or where Hyp mode does not exist, Monitor mode from Non-secure state or where it does not exist; and
every SPSR whose M names no mode, such as an AArch64 state (M[4] == 0). The Exception levels are R32's, as log 14 reads
them with the rule. -/
def Obligations.IllegalReturnEvents : Prop :=
  ∀ (spsr : Word) (s : State),
    (spsr.getLsbD 4 = false → illegalReturn spsr s = true) ∧
    ((∀ m : Mode, spsr.extractLsb' 0 5 ≠ m.bits) → illegalReturn spsr s = true) ∧
    ∀ m : Mode, spsr.extractLsb' 0 5 = m.bits →
      (illegalReturn spsr s = true ↔
        level s.secure s.pstate.mode < level s.secure m ∨
        (m = .hyp ∧ (s.secure = true ∨ Config.hasHyp = false)) ∨
        (m = .monitor ∧ (s.secure = false ∨ Config.hasMonitor = false)))

/-- A1 ADDS to the PC in Hyp mode is UNDEFINED (R114, R160, R191): it takes the Undefined Instruction exception to
Hyp mode as R194 and R199 describe it (logs 11, 12, 31; that the security state stays is log 14). Of exec:
a step stops there (log 32). -/
def Obligations.ExceptionReturnUndefinedInHyp : Prop :=
  ∀ (rrx : Bool) (cond rn rm : RegNum) (imm5 : BitVec 5) (stype : BitVec 2) (s : State),
    conditionHolds cond s.pstate = true → s.pstate.mode = .hyp →
    ∃ t : State, exec (a1 true rrx cond rn 15#4 imm5 stype rm) s = .next t ∧ hypEntry 4 s t ∧ t.hsrEC = 0 ∧
      memoryUnchanged s t ∧ controlsUnchanged s t

/-- A1 ADDS to the PC in User or System mode is UNDEFINED or a NOP, as the implementation chooses (R160, log 10);
UNDEFINED takes the exception R199 describes (log 11; to Hyp mode logs 12, 13, which keep A, I, F and R14_hyp; what
R199 does not list is kept, log 31; that the security state stays is log 14), with HSR.EC 0 in Hyp mode (R194). Of exec:
a step stops there (log 32). -/
def Obligations.ExceptionReturnInUserOrSystem : Prop :=
  ∀ (rrx : Bool) (cond rn rm : RegNum) (imm5 : BitVec 5) (stype : BitVec 2) (s : State),
    s.pstate.t = false → conditionHolds cond s.pstate = true → (s.pstate.mode = .user ∨ s.pstate.mode = .system) →
    ∃ t : State, exec (a1 true rrx cond rn 15#4 imm5 stype rm) s = .next t ∧
      ((Config.cuAluExcRet = .undef ∧ undefinedTaken s t) ∨
        (Config.cuAluExcRet = .nop ∧ t = { s with pc := s.pc + 4 }))

/-! ## Encoding T1 -/

/-- T1 outside an IT block is ADDS: always executed, all four flags written (R77, R124). -/
def Obligations.AddsT1WritesSumAndFlags : Prop :=
  ∀ (rm rn rd : BitVec 3) (s : State), s.pstate.t = true → s.pstate.it = 0 →
    exec (.addsT1 rm rn rd) s =
      (let x := s.readReg (rn.setWidth 4)
       let y := s.readReg (rm.setWidth 4)
       .next (written s (rd.setWidth 4) (x + y) 2 (withSumFlags x y s.pstate)))

/-- T1 inside an IT block is ADD: conditional, no flag written, the IT state advanced (R77, R125). -/
def Obligations.AddT1WritesSum : Prop :=
  ∀ (rm rn rd : BitVec 3) (s : State), s.pstate.t = true → passesT32 s.pstate →
    exec (.addT1 rm rn rd) s =
      .next (written s (rd.setWidth 4) (s.readReg (rn.setWidth 4) + s.readReg (rm.setWidth 4)) 2
        { s.pstate with it := nextIT s.pstate.it })

/-- R118: the addition is commutative, so a T1 word with its sources exchanged does the same. -/
def Obligations.T1SourcesCommute : Prop :=
  ∀ (rm rn rd : BitVec 3) (s : State),
    exec (.addsT1 rm rn rd) s = exec (.addsT1 rn rm rd) s ∧ exec (.addT1 rm rn rd) s = exec (.addT1 rn rm rd) s

/-! ## Encoding T2 -/

/-- T2 ADD with a destination other than the PC: the sum goes to Rdn, no flag is written, the PC as Rm reads the
address plus 4 (R126, R147). -/
def Obligations.AddT2WritesSum : Prop :=
  ∀ (dn : BitVec 1) (rm : RegNum) (rdn : BitVec 3) (s : State), s.pstate.t = true → passesT32 s.pstate →
    regDnRdn dn rdn ≠ 15#4 →
    exec (.addT2 dn rm rdn) s =
      .next (written s (regDnRdn dn rdn) (s.readReg (regDnRdn dn rdn) + (if rm = 15#4 then s.pc + 4 else s.readReg rm)) 2
        { s.pstate with it := nextIT s.pstate.it })

/-- T2 ADD to the PC, outside an IT block or as its last instruction, is a simple branch: to the instruction's
address plus 4 plus Rm, bit 0 cleared, in T32 state (R113, R126, R158); the last instruction of an IT block leaves
it (R163). -/
def Obligations.AddT2ToPcBranches : Prop :=
  ∀ (rm : RegNum) (s : State), s.pstate.t = true → passesT32 s.pstate → rm ≠ 15#4 →
    (s.pstate.it = 0 ∨ lastInITBlock s.pstate.it = true) →
    exec (.addT2 1 rm 7) s = .next (branchedT32 s (s.pc + 4 + s.readReg rm))

/-- T2 `ADD PC, PC` (R80 (a)) has one of the behaviours 93_implementation_defined.md U3 lists, or the model stops
(log 19): UNDEFINED (logs 11 to 14, 31), a NOP, a branch to an UNKNOWN address, a stop. Of exec:
a step stops there (log 32). -/
def Obligations.AddPcPcOutcomes : Prop :=
  ∀ s : State, s.pstate.t = true → (s.pstate.it = 0 ∨ inITBlock s.pstate.it = true) →
    undefinedNopOrStop .t2PcPc 2 s (exec (.addT2 1 15 7) s) ∨
    exec (.addT2 1 15 7) s =
      .next (branchedT32 { s with fresh := s.fresh + 2 } (Config.freeWord (s.fresh + 1)))

/-- T2 ADD to the PC inside an IT block that it does not end (R80 (b)): one of the behaviours U4 lists, or a stop
(log 19): UNDEFINED (logs 11 to 14, 31), a NOP, or the branch with an UNKNOWN IT state; when the condition fails, also
the next instruction with an UNKNOWN IT state. Of exec:
a step stops there (log 32). -/
def Obligations.BranchInsideITBlockOutcomes : Prop :=
  ∀ (rm : RegNum) (s : State), s.pstate.t = true → inITBlock s.pstate.it = true → lastInITBlock s.pstate.it = false →
    rm ≠ 15#4 →
    undefinedNopOrStop .t2BranchInIT 2 s (exec (.addT2 1 rm 7) s) ∨
    exec (.addT2 1 rm 7) s =
      .next { s with pc := (s.pc + 4 + s.readReg rm) &&& 0xFFFFFFFE#32, fresh := s.fresh + 2,
                     pstate := { s.pstate with it := Config.freeIT (s.fresh + 1) } } ∨
    (failsT32 s.pstate ∧ exec (.addT2 1 rm 7) s =
      .next { s with pc := s.pc + 2, fresh := s.fresh + 2,
                     pstate := { s.pstate with it := Config.freeIT (s.fresh + 1) } })

/-! ## Encoding T3 -/

/-- T3 ADD, both variants, with the (0) bit 0 and no PC operand: the sum goes to Rd, no flag is written (R127,
R128). -/
def Obligations.AddT3WritesSum : Prop :=
  ∀ (rrx : Bool) (rn rd rm : RegNum) (imm3 : BitVec 3) (imm2 stype : BitVec 2) (s : State), s.pstate.t = true →
    passesT32 s.pstate → rd ≠ 15#4 → rn ≠ 15#4 → rm ≠ 15#4 →
    exec (t3 false rrx 0 rn imm3 rd imm2 stype rm) s =
      .next (written s rd (s.readReg rn + operand rrx stype (amountField imm3 imm2) (s.readReg rm) s.pstate.c) 4
        { s.pstate with it := nextIT s.pstate.it })

/-- T3 ADDS, both variants, with the (0) bit 0 and no PC operand: the sum goes to Rd and all four flags take R111's
values, inside an IT block too (R129, R130). -/
def Obligations.AddsT3WritesSumAndFlags : Prop :=
  ∀ (rrx : Bool) (rn rd rm : RegNum) (imm3 : BitVec 3) (imm2 stype : BitVec 2) (s : State), s.pstate.t = true →
    passesT32 s.pstate → rd ≠ 15#4 → rn ≠ 15#4 → rm ≠ 15#4 →
    exec (t3 true rrx 0 rn imm3 rd imm2 stype rm) s =
      (let x := s.readReg rn
       let y := operand rrx stype (amountField imm3 imm2) (s.readReg rm) s.pstate.c
       .next (written s rd (x + y) 4 { withSumFlags x y s.pstate with it := nextIT s.pstate.it }))

/-- T3 ADD to the PC (R85): one of the behaviours U5 lists, or a stop (log 19): UNDEFINED (logs 11 to 14, 31), a NOP
(which is also the result discarded), or an UNKNOWN effect on the PC. Of exec:
a step stops there (log 32). -/
def Obligations.AddT3ToPcOutcomes : Prop :=
  ∀ (rrx : Bool) (rn rm : RegNum) (imm3 : BitVec 3) (imm2 stype : BitVec 2) (s : State), s.pstate.t = true →
    (s.pstate.it = 0 ∨ inITBlock s.pstate.it = true) →
    undefinedNopOrStop .t3DestPc 4 s (exec (t3 false rrx 0 rn imm3 15#4 imm2 stype rm) s) ∨
    exec (t3 false rrx 0 rn imm3 15#4 imm2 stype rm) s =
      .next (branchedT32 { s with fresh := s.fresh + 2 } (Config.freeWord (s.fresh + 1)))

/-- T3 with the PC as Rn or Rm (R85): one of the behaviours U6 and U7 list, or a stop (log 19): UNDEFINED (logs 11
to 14, 31), a NOP, or the sum with an UNKNOWN value for each source that is the PC, the flags of an ADDS being that
sum's. Of exec:
a step stops there (log 32). -/
def Obligations.T3PcSourceOutcomes : Prop :=
  ∀ (sbit rrx : Bool) (rn rd rm : RegNum) (imm3 : BitVec 3) (imm2 stype : BitVec 2) (s : State), s.pstate.t = true →
    (s.pstate.it = 0 ∨ inITBlock s.pstate.it = true) → rd ≠ 15#4 → (rn = 15#4 ∨ rm = 15#4) →
    (let i := t3 sbit rrx 0 rn imm3 rd imm2 stype rm
     let x := if rn = 15#4 then Config.freeWord (s.fresh + 1) else s.readReg rn
     let value := if rm = 15#4 then Config.freeWord (if rn = 15#4 then s.fresh + 2 else s.fresh + 1) else s.readReg rm
     let y := operand rrx stype (amountField imm3 imm2) value s.pstate.c
     undefinedNopOrStop (if rn = 15#4 then .t3FirstPc else .t3SecondPc) 4 s (exec i s) ∨
     exec i s =
       .next (written { s with fresh := if rn = 15#4 ∧ rm = 15#4 then s.fresh + 3 else s.fresh + 2 } rd (x + y) 4
         { (if sbit then withSumFlags x y s.pstate else s.pstate) with it := nextIT s.pstate.it }))

/-- T3 with its (0) bit set (R82): one of the behaviours U10 lists, or a stop (log 19): UNDEFINED (logs 11 to 14, 31), a NOP,
what the word does with the bit 0 (for a word that also names the PC, one of the behaviours R85's statements give it), or, where no
operand is the PC, the sum's flags with an UNKNOWN destination register. Of exec:
a step stops there (log 32). -/
def Obligations.T3ShouldBeZeroOutcomes : Prop :=
  ∀ (sbit rrx : Bool) (rn rd rm : RegNum) (imm3 : BitVec 3) (imm2 stype : BitVec 2) (s : State), s.pstate.t = true →
    (s.pstate.it = 0 ∨ inITBlock s.pstate.it = true) →
    (let i := t3 sbit rrx 1 rn imm3 rd imm2 stype rm
     let x := s.readReg rn
     let y := operand rrx stype (amountField imm3 imm2) (s.readReg rm) s.pstate.c
     undefinedNopOrStop .t3Sbz 4 s (exec i s) ∨
     exec i s = exec (t3 sbit rrx 0 rn imm3 rd imm2 stype rm) { s with fresh := s.fresh + 1 } ∨
     (rd ≠ 15#4 ∧ rn ≠ 15#4 ∧ rm ≠ 15#4 ∧ passesT32 s.pstate ∧ exec i s =
       .next (written { s with fresh := s.fresh + 2 } rd (Config.freeWord (s.fresh + 1)) 4
         { (if sbit then withSumFlags x y s.pstate else s.pstate) with it := nextIT s.pstate.it })))

/-! ## T32 conditions -/

/-- R112 for T32: inside an IT block whose condition fails, an instruction that is not UNPREDICTABLE changes nothing
but the pc and the IT state. -/
def Obligations.FailedConditionSkipsT32 : Prop :=
  ∀ (i : Instr) (s : State), i.isT32 = true → s.pstate.t = true → failsT32 s.pstate →
    isUnpredictable s.pstate.it i = false → exec i s = .next (skippedT32 s (lengthInBytes i))

/-- In a malformed IT state (R142) every T32 instruction is refused, the model's stop, log 20: an UNPREDICTABLE word as
such, since the decode comes before the condition (R9), any other for the IT state. -/
def Obligations.MalformedITRefused : Prop :=
  ∀ (i : Instr) (s : State), i.isT32 = true → s.pstate.it ≠ 0 → inITBlock s.pstate.it = false →
    (isUnpredictable s.pstate.it i = false → exec i s = .refused .malformedIT) ∧
    (WellFormed i → isUnpredictable s.pstate.it i = true → ∃ case, exec i s = .refused (.unpredictable case))

/-! ## Registers and corner operands -/

/-- R115: one register as every operand. `ADD Rx, Rx, Rx` doubles it, with LSL #1 it triples it, and `ADDS Rx, Rx,
Rx, RRX` uses the old register twice and the old C once. -/
def Obligations.SameRegisterOperands : Prop :=
  ∀ (r : RegNum) (s : State), s.pstate.t = false → r ≠ 15#4 →
    exec (.addShiftA1 14 r r 0 0 r) s = .next (written s r (s.readReg r + s.readReg r) 4 s.pstate) ∧
    exec (.addShiftA1 14 r r 1 0 r) s =
      .next (written s r (s.readReg r + s.readReg r + s.readReg r) 4 s.pstate) ∧
    exec (.addsRrxA1 14 r r r) s =
      (let y := shifted 3 0 (s.readReg r) s.pstate.c
       .next (written s r (s.readReg r + y) 4 (withSumFlags (s.readReg r) y s.pstate)))

/-- R147: in A32 state the PC reads as the instruction's address plus 8, in either source and under a shift. -/
def Obligations.PcOperandReadsAhead : Prop :=
  ∀ (rd rm : RegNum) (s : State), s.pstate.t = false → rd ≠ 15#4 → rm ≠ 15#4 →
    exec (.addShiftA1 14 15 rd 0 0 rm) s = .next (written s rd (s.pc + 8 + s.readReg rm) 4 s.pstate) ∧
    exec (.addShiftA1 14 15 rd 0 0 15) s = .next (written s rd (s.pc + 8 + (s.pc + 8)) 4 s.pstate) ∧
    exec (.addShiftA1 14 15 rd 1 0 15) s = .next (written s rd (s.pc + 8 + ((s.pc + 8) + (s.pc + 8))) 4 s.pstate)

/-! ## Frames -/

/-- The frame of every instruction that is neither an exception return nor UNPREDICTABLE (R29, R36, R37, R50): it
changes no register but its destination (none, if that is the PC), no flag unless it is an ADDS, nothing else of
PSTATE but IT and T, no exception register, no control register, no byte of memory. -/
def Obligations.OrdinaryFrame : Prop :=
  ∀ (i : Instr) (s t : State), ordinary i s → exec i s = .next t →
    othersUnchanged s t (destination i) ∧ (destination i = 15#4 → t.gpr = s.gpr) ∧
    (setsFlags i = false → flagsUnchanged s.pstate t.pstate) ∧ restOfPstateUnchanged s.pstate t.pstate ∧
    (i.isT32 = true → s.pstate.t = true → t.pstate.t = true) ∧
    exceptionRegistersUnchanged s t ∧ controlsUnchanged s t ∧ memoryUnchanged s t

/-- No instruction, exception return, exception entry or UNPREDICTABLE word included, writes a byte of memory (R50,
R60), a vector base or a control bit (R36; R161 and R199 list none among what a return or an entry writes, log 31). That
none changes the security state is the model's choice, log 14. -/
def Obligations.MemoryAndControlsNeverWritten : Prop :=
  ∀ (i : Instr) (s t : State), exec i s = .next t → memoryUnchanged s t ∧ t.mem = s.mem ∧ controlsUnchanged s t

/-- R116, R29: an ADD never changes a flag, whatever its destination, operands and mode. Of an UNPREDICTABLE ADD word (log
19) this is so for each listed behaviour; that the exception it may take keeps the flags is log 31. -/
def Obligations.AddNeverWritesFlags : Prop :=
  ∀ (i : Instr) (s t : State), setsFlags i = false → exec i s = .next t → flagsUnchanged s.pstate t.pstate

/-- The registers of every mode. An instruction writes at most its destination's copy in the current mode, where the
destination is not the PC, and, through the exception it may take, LR_und; a branch or a return writes none (R159, R23,
R199; an UNPREDICTABLE word may take the exception, log 19; the exception is log 11, that an entry to Hyp mode leaves
R14_hyp log 12, that an entry leaves every other general register log 31). Which register another mode sees under a
number is R23's, as log 8 reads it: after a change of mode R0 to R7 read the same, R8 to R12 unless exactly one of the
modes is FIQ mode, R13 and R14 as the new mode's own; and a write shows in exactly the modes that share the register. -/
def Obligations.OtherModesRegistersKept : Prop :=
  (∀ (i : Instr) (s t : State), exec i s = .next t →
    ∀ k : Fin 36, (destination i = 15#4 ∨ k ≠ gprSlot s.pstate.mode (destination i)) → k ≠ gprSlot .undef 14 →
      t.gpr[k] = s.gpr[k]) ∧
  (∀ (i : Instr) (s t : State), exec i s = .next t → ∀ r : RegNum, r ≠ 15#4 →
    (r ≠ destination i ∨ ¬ oneRegister r s.pstate.mode t.pstate.mode) → (r ≠ 14#4 ∨ t.pstate.mode ≠ .undef) →
      t.readReg r = (seenFrom t.pstate.mode s).readReg r) ∧
  (∀ (s : State) (m : Mode) (r : RegNum), r ≠ 15#4 → oneRegister r s.pstate.mode m →
    (seenFrom m s).readReg r = s.readReg r) ∧
  (∀ (s : State) (m : Mode) (r r' : RegNum) (v : Word), r ≠ 15#4 → r' ≠ 15#4 →
    (seenFrom m (s.writeReg r v)).readReg r' =
      if r' = r ∧ oneRegister r s.pstate.mode m then v else (seenFrom m s).readReg r')

/-! ## Whole-machine rules -/

/-- R9, R163, R190: when no Illegal Execution state is pending and the pc is aligned, the bits at the pc that decode to an
instruction make step run exactly it, with nothing around it: the advance of the pc and of the IT state is part of exec.
Before it runs, step stops, with nothing written, where the rules say so (R190 to R193, decisions D7 to D10, D12, D18
and D22 of the spec; log 32): it refuses a word that is UNPREDICTABLE by its decode or has T3's (0) bit set, whether or not
its condition passes; then a T32 instruction in a malformed IT state; it raises Undefined, naming its address, for an
exception return in Hyp mode, and refuses one in User or System mode and an A32 branch to a target with bits[1:0] 10,
if the condition passes. Bits that the decoder rejects make step refuse them by the decoder's reason (R90, R163; log 21). -/
def Obligations.StepRunsDecoded : Prop :=
  ∀ (s : State) (bits : InstrBits), s.pcAligned = true → s.pstate.il = false → fetch s = .ok bits →
    (∀ i, decodeBits (inITBlock s.pstate.it) bits = .ok i →
      (isUnpredictable s.pstate.it i = true → ∃ case, step s = .refused (.unpredictable case)) ∧
      (isUnpredictable s.pstate.it i = false →
        (malformedIT i s.pstate → step s = .refused .malformedIT) ∧
        (returnIn [.hyp] i s → step s = .fault (.undefined s.pc)) ∧
        (returnIn [.user, .system] i s → step s = .refused .returnInUserOrSystem) ∧
        (branchesToTen i s → step s = .refused .branchTargetTen) ∧
        (¬ malformedIT i s.pstate → ¬ returnIn [.hyp, .user, .system] i s → ¬ branchesToTen i s → step s = exec i s))) ∧
    (∀ r, decodeBits (inITBlock s.pstate.it) bits = .error r → step s = .refused (.rejected r))

/-- R51, R52: the bytes at a T32 pc, least significant first, are the halfword fetched, which is the whole instruction
unless it has T3's fixed bits; then a second halfword follows at pc + 2. The bytes at an A32 pc are the word fetched. -/
def Obligations.FetchIsLittleEndian : Prop :=
  ∀ (s : State) (b0 b1 : Byte), s.readByte s.pc = some b0 → s.readByte (s.pc + 1) = some b1 →
    (let hw1 : Half := BitVec.ofNat 16 (b0.toNat + 2 ^ 8 * b1.toNat)
     (s.pstate.t = true → hw1 &&& 0xFFE0 ≠ 0xEB00 → fetch s = .ok (.t16 hw1)) ∧
     ∀ b2 b3 : Byte, s.readByte (s.pc + 2) = some b2 → s.readByte (s.pc + 3) = some b3 →
       (s.pstate.t = false → fetch s =
          .ok (.a32 (BitVec.ofNat 32 (b0.toNat + 2 ^ 8 * b1.toNat + 2 ^ 16 * b2.toNat + 2 ^ 24 * b3.toNat)))) ∧
       (s.pstate.t = true → hw1 &&& 0xFFE0 = 0xEB00 →
          fetch s = .ok (.t32 hw1 (BitVec.ofNat 16 (b2.toNat + 2 ^ 8 * b3.toNat)))))

/-- A step whose pc is misaligned is refused (R53, D5; the model's stop, log 18), and one that needs a byte which memory
does not hold stops with the fetch fault at the first such address (R51, R56, D4; log 5): one of the two bytes of a T32
halfword, one of the four of an A32 word, one of the four of a T32 pair whose first halfword has T3's fixed bits. -/
def Obligations.UnfetchableStops : Prop :=
  ∀ s : State,
    (s.pcAligned = false → step s = .refused .misalignedPc) ∧
    (s.pcAligned = true → ∀ k : Nat, (∀ j < k, s.readByte (s.pc + BitVec.ofNat 32 j) ≠ none) →
      s.readByte (s.pc + BitVec.ofNat 32 k) = none →
      (k < 2 ∨ (k < 4 ∧ (s.pstate.t = false ∨ ∃ b0 b1 : Byte, s.readByte s.pc = some b0 ∧
        s.readByte (s.pc + 1) = some b1 ∧ (BitVec.ofNat 16 (b0.toNat + 2 ^ 8 * b1.toNat) : Half) &&& 0xFFE0 = 0xEB00))) →
      step s = .fault (.fetchUnmapped (s.pc + BitVec.ofNat 32 k)))

/-- A word placed for the next step, if the decoder reads an instruction from it, is performed by that step as the first
instruction after reset (log 6): the stop decided for it, if there is one, else exec of it (log 32). -/
def Obligations.PlacedWordRunsAfterReset : Prop :=
  ∀ (nbits w : Nat) (i : Instr), decodeTableWord nbits w = some i →
    step (State.reset.withFetchWord nbits w) = perform i (State.reset.withFetchWord nbits w) ∧
    (decidedStop i (State.reset.withFetchWord nbits w) = none →
      step (State.reset.withFetchWord nbits w) = exec i (State.reset.withFetchWord nbits w))

/-- R195: with PSTATE.IL set, the next instruction, whatever its word, takes the Illegal Execution state exception,
reported as an Undefined Instruction exception (log 16). LR_und in T32 state, IL, A and F and the modes the entry is
taken from are log 11's, what the entry to Hyp mode keeps log 12's, the offset 0x14 log 13's, what R199 does not list
log 31's; that the security state stays is log 14. -/
def Obligations.IllegalStateTakesException : Prop :=
  ∀ (s : State) (bits : InstrBits), s.pcAligned = true → fetch s = .ok bits → s.pstate.il = true →
    ∃ t : State, step s = .next t ∧ exceptionTaken s t ∧ memoryUnchanged s t ∧ controlsUnchanged s t

/-- No instruction ends in a fault; one that is not UNPREDICTABLE ends in a next state unless the IT state is
malformed; and the only refusals are of a malformed IT state (log 20) and of an UNPREDICTABLE word (log 19). Of the
outcomes R117 lists, the exception return, ADDS to the PC in Hyp, User and System mode and the A32 branch to bits[1:0]
10 end in a next state of exec by the model's choices, logs 9, 11, 10 and 17; that step stops at the last three is
StepRunsDecoded's. A step on a well-formed instruction completes but where a stop is decided for it. -/
def Obligations.InstructionsComplete : Prop :=
  ∀ (i : Instr) (s : State), (∀ f, exec i s ≠ .fault f) ∧
    (isUnpredictable s.pstate.it i = false → (i.isT32 = true → s.pstate.it = 0 ∨ inITBlock s.pstate.it = true) →
      ∃ t, exec i s = .next t) ∧
    (∀ r, exec i s = .refused r → r = .malformedIT ∨
      (isUnpredictable s.pstate.it i = true ∧ ∃ case, r = .unpredictable case)) ∧
    (frontEnd s = .ok i → WellFormed i → decidedStop i s = none → ∃ t, step s = .next t)

/-- Every step keeps the invariant: memory canonical, the pc even, the vector bases aligned. So does the step of a PE that
does what 93_implementation_defined.md lists where the machine stops (log 32). -/
def Obligations.StepKeepsSound : Prop :=
  ∀ s t : State, s.sound → (step s = .next t ∨ permittedStep s = .next t) → t.sound

/-- The invariant holds at reset, with the mode, the instruction set, the masks and the IT state of R40 (log 3). The
vector bases are aligned because log 4 makes them zero, and memory is canonical because log 5 lists no byte. -/
def Obligations.ResetIsSound : Prop :=
  State.reset.sound ∧ State.reset.itLegal ∧ State.reset.pcAligned = true ∧ State.reset.pstate.mode = .supervisor ∧
    State.reset.pstate.t = false ∧ State.reset.pstate.a = true ∧ State.reset.pstate.i = true ∧
    State.reset.pstate.f = true

/-- R31, R220: every step keeps the IT state legal, zero in A32 state and in T32 state zero or inside a block. So does
the step of a PE that does what 93_implementation_defined.md lists (log 32), but for a T2 branch, its Rm not the PC,
inside an IT block that it does not end, after which it is UNKNOWN (U4). -/
def Obligations.StepKeepsITLegal : Prop :=
  ∀ s t : State, s.itLegal →
    (step s = .next t → t.itLegal) ∧
    (permittedStep s = .next t →
      (∀ dn rm rdn, frontEnd s = .ok (.addT2 dn rm rdn) → regDnRdn dn rdn = 15#4 → rm ≠ 15#4 →
        inITBlock s.pstate.it = true → lastInITBlock s.pstate.it = true) →
      t.itLegal)

/-- R27: every step from an aligned pc leads to one. So does the step of a PE that does what
93_implementation_defined.md lists (log 32), but for an A32 branch to an address with bits[1:0] == 10 where it does not
clear them (R157, log 17). -/
def Obligations.StepKeepsPcAligned : Prop :=
  ∀ s t : State, s.basesAligned →
    (step s = .next t → t.pcAligned = true) ∧
    (permittedStep s = .next t → t.pcAligned = true ∨
      (Config.a32ForceAlignPc = false ∧ s.pstate.t = false ∧ t.pstate.t = false ∧ t.pc.extractLsb' 0 2 = 2))

/-- R202, R23: the mode changes only through an exception return or an exception: an instruction that changes it is
an A1 ADDS to the PC or an UNPREDICTABLE word, which may be UNDEFINED (log 19). -/
def Obligations.ModeChangesOnlyThroughExceptions : Prop :=
  ∀ (i : Instr) (s t : State), exec i s = .next t → t.pstate.mode ≠ s.pstate.mode →
    isExceptionReturn i = true ∨ isUnpredictable s.pstate.it i = true

/-- From User mode a step leads to User mode, or through an exception to Undefined or Hyp mode at its vector: no
instruction gives User mode code another mode's privilege at an address of its own choosing (R199, R202; the entries are
logs 11 to 13). In the machine that exception is a pending Illegal Execution state's (log 16, unsafe for the saved addresses);
the steps that a PE of 93_implementation_defined.md takes where the machine stops (log 32) do the same, if ADDS to the PC is
UNDEFINED or a NOP there (log 10, U2) and an UNPREDICTABLE word does only what is listed for it (log 19). That Hyp
mode exists is opaque (log 29), so its clause is that of an implementation that has it. -/
def Obligations.UserModeEntersOnlyVectors : Prop :=
  ∀ s t : State, s.pstate.mode = .user → (step s = .next t ∨ permittedStep s = .next t) →
    (s.pstate.il = false → step s = .next t → t.pstate.mode = .user) ∧
    (t.pstate.mode = .user ∨
    (t.pstate.mode = .undef ∧ t.pc = (if s.sctlrV then 0xFFFF0000 else s.vbar) + 4 ∧ t.pstate.i = true ∧
      t.spsrUnd = s.pstate.image) ∨
    (t.pstate.mode = .hyp ∧ t.pc = s.hvbar + 0x14 ∧ s.hcrTGE = true ∧ t.elrHyp = s.pc ∧ t.spsrHyp = s.pstate.image))

/-- User mode code cannot change its interrupt masks, or any field of PSTATE but the flags, IT and T, without leaving
User mode (R202, R36, R37), in the machine and on a PE that does what 93_implementation_defined.md lists (log 32): there
ADDS to the PC that stays in User mode is a NOP (log 10, U2) and an UNPREDICTABLE word does only what is listed for
it (log 19, U3 to U7, U10). -/
def Obligations.UserModeKeepsMasks : Prop :=
  ∀ s t : State, s.pstate.mode = .user → (step s = .next t ∨ permittedStep s = .next t) → t.pstate.mode = .user →
    restOfPstateUnchanged s.pstate t.pstate ∧ exceptionRegistersUnchanged s t

/-- R162, R30: PSTATE saved as an SPSR image and restored by a legal return is PSTATE again, whichever optional
fields exist, where its IT state is legal and the optional fields that do not exist have not changed (logs 15, 23). -/
def Obligations.SavedPstateRestores : Prop :=
  ∀ p q : Pstate, (p.it = 0 ∨ (p.t = true ∧ inITBlock p.it = true)) → q.ssbs = p.ssbs → q.pan = p.pan → q.dit = p.dit →
    setPstateFromPsr p.image false q = p

/-- R199, R200: taking the Undefined Instruction exception from User mode and returning with SPSR_und to the address
of the instruction gives back User mode, its PSTATE, its pc and its registers (logs 9, 11, 15). That the entry keeps every
register User mode sees, and SSBS, PAN and DIT where the feature does not exist, is log 31, with log 23. -/
def Obligations.UndefinedThenReturnRestores : Prop :=
  ∀ s : State, s.pstate.mode = .user → s.hcrTGE = false → s.itLegal → s.pcAligned = true →
    (let h := takeUndefined s
     let t := exceptionReturn s.pc h.spsrUnd h
     h.pstate.mode = .undef ∧ t.pstate = s.pstate ∧ t.pc = s.pc ∧
       (∀ r : RegNum, r ≠ 15#4 → t.readReg r = s.readReg r) ∧ t.mem = s.mem)

/-! ## The assembler syntax -/

/-- What the assembler chooses for a line (30_encoding.md R91 to R97) is a well-formed instruction of the instruction
set and IT context, never an UNPREDICTABLE word, with the line's destination and S, its sources (exchanged only under
R97 (f)), its shift, its condition (in A32 state as the cond field, in T32 state that of the IT block, else AL) and the
width it asks for; its words decode to it. Every A32 line but one with the SP as first source, `.N`, a condition 1111 or
an amount out of range assembles; so does every T32 line with the condition in force, no PC operand, an amount in range
and no `.N`, but one with the SP as first source. R97's preferences hold: T1 for ADDS outside an IT block (a, d), T1 for
ADD with `<Rd>` inside one (b), else T2 where the destination is the first source (c, e) or, inside an IT block, the
second (f). That SP as `<Rm>` and the agreement of the condition are settled as they are is log 30. -/
def Obligations.AssembledLineIsItsInstruction : Prop :=
  (∀ (l : AsmLine) (i : Instr), assembleA32 l = .ok i →
      WellFormed i ∧ i.isT32 = false ∧ destination i = l.dest ∧ setsFlags i = l.setflags ∧
        operandFields i = (l.rn, l.rm, writtenShift l.shift) ∧ amountInRange l.shift ∧
        condField i = some (l.cond.getD 14#4) ∧ l.width ≠ some .narrow ∧ decodeBits false (encode i) = .ok i) ∧
  (∀ l : AsmLine, l.rn ≠ 13#4 → l.width ≠ some .narrow → l.cond ≠ some 15#4 → amountInRange l.shift →
      ∃ i, assembleA32 l = .ok i) ∧
  (∀ (it : BitVec 8) (l : AsmLine) (i : Instr), assembleT32 it l = .ok i →
      WellFormed i ∧ i.isT32 = true ∧ isUnpredictable it i = false ∧ destination i = l.dest ∧
        setsFlags i = l.setflags ∧
        (operandFields i = (l.rn, l.rm, writtenShift l.shift) ∨ exchanged it l i) ∧ amountInRange l.shift ∧
        condField i = none ∧ conditionAgrees it l ∧
        (l.width = some .narrow → lengthInBytes i = 2) ∧ (l.width = some .wide → lengthInBytes i = 4) ∧
        decodeBits (inITBlock it) (encode i) = .ok i) ∧
  (∀ (it : BitVec 8) (l : AsmLine), conditionAgrees it l → l.rn ≠ 13#4 →
      (l.width ≠ some .narrow → l.dest ≠ 15#4 → l.rn ≠ 15#4 → l.rm ≠ 15#4 → amountInRange l.shift →
        ∃ i, assembleT32 it l = .ok i) ∧
      (narrowForm l → lowRegisters l → l.setflags = true → inITBlock it = false → l.cond = none →
        assembleT32 it l = .ok (t1Fields .addsT1 l)) ∧
      (narrowForm l → l.setflags = false →
        (inITBlock it = true → l.rd.isSome = true → lowRegisters l → assembleT32 it l = .ok (t1Fields .addT1 l)) ∧
        (¬ (inITBlock it = true ∧ l.rd.isSome = true ∧ lowRegisters l) →
          (l.dest = l.rn → t2Allows it l.rn l.rm → assembleT32 it l = .ok (t2 l.rn l.rm)) ∧
          (l.dest ≠ l.rn → inITBlock it = true → l.dest = l.rm → t2Allows it l.rm l.rn →
            assembleT32 it l = .ok (t2 l.rm l.rn)))))
end

