-- ==== Sys2Proof/Laws/Assembler.lean ====
section
/-! SUPPORT. What each row the assembler answers is: its fields, its operands and its context (30_encoding.md R87, R97). -/

namespace Sys2Proof.Machine

/-- An amount field split into imm3 and imm2 is itself (R84). -/
@[simp] theorem amountField_split (x : BitVec 5) : amountField (x.extractLsb' 2 3) (x.extractLsb' 0 2) = x := by
  revert x; decide

/-- A register number split into DN and Rdn is itself (R79). -/
@[simp] theorem regDnRdn_split (r : RegNum) : regDnRdn (r.extractLsb' 3 1) (r.extractLsb' 0 3) = r := by
  revert r; decide

/-- A low register is read back from its three bits (R77). -/
theorem setWidth_setWidth_low {r : RegNum} (h : r.toNat < 8) : (r.setWidth 3).setWidth 4 = r := by
  revert r; decide

/-- The rotate right with extend pattern is one pair of fields. -/
theorem isRrxPattern_iff {imm5 : BitVec 5} {stype : BitVec 2} : isRrxPattern imm5 stype ↔ imm5 = 0 ∧ stype = 3 := by
  simp [isRrxPattern]

/-- What a row of A1 says. -/
theorem rowA1_fields (sf : Bool) (cond rn rd : RegNum) (imm5 : BitVec 5) (stype : BitVec 2) (rm : RegNum) :
    (rowA1 sf cond rn rd imm5 stype rm).isT32 = false ∧ destination (rowA1 sf cond rn rd imm5 stype rm) = rd ∧
      setsFlags (rowA1 sf cond rn rd imm5 stype rm) = sf ∧
      operandFields (rowA1 sf cond rn rd imm5 stype rm) = (rn, rm, imm5, stype) ∧
      condField (rowA1 sf cond rn rd imm5 stype rm) = some cond ∧
      (cond ≠ 15#4 → rn ≠ 13#4 → WellFormed (rowA1 sf cond rn rd imm5 stype rm)) := by
  unfold rowA1
  by_cases h : isRrxPattern imm5 stype
  · obtain ⟨rfl, rfl⟩ := isRrxPattern_iff.mp h
    cases sf <;> simp +contextual [WellFormed, Instr.isWellFormed, wellFormedA1, Instr.isT32, destination, setsFlags,
      operandFields, condField]
  · cases sf <;> simp +contextual [h, WellFormed, Instr.isWellFormed, wellFormedA1, Instr.isT32, destination, setsFlags,
      operandFields, condField]

/-- What a row of T3 says. -/
theorem rowT3_fields (sf : Bool) (rn rd : RegNum) (imm5 : BitVec 5) (stype : BitVec 2) (rm : RegNum) :
    (rowT3 sf rn rd imm5 stype rm).isT32 = true ∧ destination (rowT3 sf rn rd imm5 stype rm) = rd ∧
      setsFlags (rowT3 sf rn rd imm5 stype rm) = sf ∧
      operandFields (rowT3 sf rn rd imm5 stype rm) = (rn, rm, imm5, stype) ∧
      condField (rowT3 sf rn rd imm5 stype rm) = none ∧ lengthInBytes (rowT3 sf rn rd imm5 stype rm) = 4 ∧
      (rd ≠ 15#4 → rn ≠ 13#4 → WellFormed (rowT3 sf rn rd imm5 stype rm)) ∧
      (∀ it, rd ≠ 15#4 → rn ≠ 15#4 → rm ≠ 15#4 → isUnpredictable it (rowT3 sf rn rd imm5 stype rm) = false) := by
  unfold rowT3
  by_cases h : isRrxPattern imm5 stype
  · obtain ⟨rfl, rfl⟩ := isRrxPattern_iff.mp h
    cases sf <;> simp +contextual [WellFormed, Instr.isWellFormed, wellFormedT3, Instr.isT32, destination,
      setsFlags, operandFields, condField, lengthInBytes, isUnpredictable, unpredictableT3]
  · cases sf <;> simp +contextual [h, WellFormed, Instr.isWellFormed, wellFormedT3, Instr.isT32, destination,
      setsFlags, operandFields, condField, lengthInBytes, isUnpredictable, unpredictableT3]

/-- What T2's row says, where it is one (R79, R80). -/
theorem rowT2_fields {it : BitVec 8} {rdn rm : RegNum} {i : Instr} (h : rowT2 it rdn rm = some i) :
    i = .addT2 (rdn.extractLsb' 3 1) rm (rdn.extractLsb' 0 3) ∧ rdn ≠ 13#4 ∧ rm ≠ 13#4 ∧ WellFormed i ∧
      isUnpredictable it i = false := by
  unfold rowT2 at h
  split at h
  · cases h
  · next hn =>
    cases h
    simp only [not_or, not_and] at hn
    refine ⟨rfl, hn.1, hn.2.1, by simp [WellFormed, Instr.isWellFormed, hn.1, hn.2.1], ?_⟩
    simp only [isUnpredictable, regDnRdn_split]
    by_cases hd : rdn = 15#4
    · have := hn.2.2 hd
      simp_all
    · simp [hd]

end Sys2Proof.Machine
end

