-- ==== Sys2Proof/Laws/Bits.lean ====
section
/-! SUPPORT. Bit fields: what a bit of a placed field is. -/

namespace Sys2Proof

/-- A bit of a placed field. -/
theorem getLsbD_field {n : Nat} (w lo : Nat) (x : BitVec n) (i : Nat) :
    (field w lo x).getLsbD i = (decide (i < w) && decide (lo ≤ i) && x.getLsbD (i - lo)) := by
  simp only [field, BitVec.getLsbD_shiftLeft, BitVec.getLsbD_setWidth]
  by_cases h : i < w
  · by_cases h' : lo ≤ i
    · simp [h, h', Nat.not_lt.mpr h', show i - lo < w by omega]
    · simp [h, h', Nat.lt_of_not_le h']
  · simp [h]

/-- The same bit by its index in range. -/
theorem getElem_field {n : Nat} (w lo : Nat) (x : BitVec n) (i : Nat) (h : i < w) :
    (field w lo x)[i] = (decide (lo ≤ i) && x.getLsbD (i - lo)) := by
  rw [← BitVec.getLsbD_eq_getElem, getLsbD_field]; simp [h]

end Sys2Proof
end

