-- ==== Sys2Proof/Laws/Forms.lean ====
section
/-! SUPPORT. The state each shared operation answers, written out in one record update. -/

namespace Sys2Proof.Machine

/-- Advancing the IT state touches nothing else of PSTATE. -/
theorem Pstate.itAdvanced_eq (p : Pstate) : p.itAdvanced = { p with it := p.itAdvanced.it } := by
  unfold Pstate.itAdvanced; split <;> rfl

/-- The flags and the IT state are written independently. -/
theorem Pstate.itAdvanced_withNzcv (p : Pstate) (k : Nzcv) : (p.withNzcv k).itAdvanced = p.itAdvanced.withNzcv k := by
  unfold Pstate.itAdvanced Pstate.withNzcv; dsimp only; split <;> rfl

theorem writeResult_eq (f : AddForm) (r : Word) (k : Nzcv) (s : State) :
    writeResult f r k s =
      { s with
        gpr := s.gpr.set (gprSlot s.pstate.mode f.d) r
        pc := s.pc + f.len
        pstate := if f.setflags then s.pstate.itAdvanced.withNzcv k else s.pstate.itAdvanced } := by
  unfold writeResult advance State.writeReg
  cases f.setflags
  · rfl
  · simp only [if_true, Pstate.itAdvanced_withNzcv]

/-- A branch with ALUWritePC writes the pc and PSTATE.T, which it never clears in T32 state. -/
theorem aluWritePC_eq (a : Word) (s : State) :
    ∃ pc t, aluWritePC a s = { s with pc := pc, pstate := { s.pstate with t := t } } ∧ (s.pstate.t = true → t = true) := by
  unfold aluWritePC bxWritePC branchWritePC
  split
  · exact ⟨_, s.pstate.t, rfl, id⟩
  · split
    · exact ⟨_, true, rfl, fun _ => rfl⟩
    · next h _ => exact ⟨_, false, rfl, fun h' => absurd h' h⟩

/-- Where an exception goes: Hyp mode from Hyp mode, Hyp mode where it is routed there, else Undefined mode. -/
theorem takeException_cases (ec : BitVec 6) (s : State) :
    (s.pstate.mode = .hyp ∧ takeException ec s = enterHyp ec undefVector s) ∨
    (s.pstate.mode ≠ .hyp ∧ s.routedToHyp = true ∧ takeException ec s = enterHyp ec hypTrapVector s) ∨
    (s.pstate.mode ≠ .hyp ∧ s.routedToHyp = false ∧ takeException ec s = enterUndef s) := by
  unfold takeException
  split
  · next h => exact .inl ⟨h, rfl⟩
  · next h =>
    split
    · next h' => exact .inr (.inl ⟨h, h', rfl⟩)
    · next h' => exact .inr (.inr ⟨h, by simpa using h', rfl⟩)

/-- The condition check of a T32 instruction answers unless the IT state is malformed. -/
theorem currentCondT32_of_legal {p : Pstate} (h : p.it = 0 ∨ inITBlock p.it = true) :
    currentCondT32 p = some (if inITBlock p.it then p.it.extractLsb' 4 4 else 14) := by
  unfold currentCondT32
  split
  · rfl
  · next hn =>
    rcases h with h | h
    · simp [h]
    · exact absurd h hn

theorem currentCondT32_of_malformed {p : Pstate} (h0 : p.it ≠ 0) (h1 : inITBlock p.it = false) :
    currentCondT32 p = none := by
  unfold currentCondT32
  rw [h1, if_neg (by simp), if_neg (by simpa using h0)]

end Sys2Proof.Machine
end

