-- ==== Sys2Proof/Laws/State.lean ====
section
/-! SUPPORT. One lemma for each field and each update of the state, true by rfl, so that no later proof unfolds a
record update. -/

namespace Sys2Proof.Machine


/-! ## writeReg -/

@[simp] theorem State.writeReg_gpr (s : State) (r : RegNum) (v : Word) : (s.writeReg r v).gpr = s.gpr.set (gprSlot s.pstate.mode r) v := rfl
@[simp] theorem State.writeReg_pc (s : State) (r : RegNum) (v : Word) : (s.writeReg r v).pc = s.pc := rfl
@[simp] theorem State.writeReg_pstate (s : State) (r : RegNum) (v : Word) : (s.writeReg r v).pstate = s.pstate := rfl
@[simp] theorem State.writeReg_spsrFiq (s : State) (r : RegNum) (v : Word) : (s.writeReg r v).spsrFiq = s.spsrFiq := rfl
@[simp] theorem State.writeReg_spsrIrq (s : State) (r : RegNum) (v : Word) : (s.writeReg r v).spsrIrq = s.spsrIrq := rfl
@[simp] theorem State.writeReg_spsrSvc (s : State) (r : RegNum) (v : Word) : (s.writeReg r v).spsrSvc = s.spsrSvc := rfl
@[simp] theorem State.writeReg_spsrMon (s : State) (r : RegNum) (v : Word) : (s.writeReg r v).spsrMon = s.spsrMon := rfl
@[simp] theorem State.writeReg_spsrAbt (s : State) (r : RegNum) (v : Word) : (s.writeReg r v).spsrAbt = s.spsrAbt := rfl
@[simp] theorem State.writeReg_spsrHyp (s : State) (r : RegNum) (v : Word) : (s.writeReg r v).spsrHyp = s.spsrHyp := rfl
@[simp] theorem State.writeReg_spsrUnd (s : State) (r : RegNum) (v : Word) : (s.writeReg r v).spsrUnd = s.spsrUnd := rfl
@[simp] theorem State.writeReg_elrHyp (s : State) (r : RegNum) (v : Word) : (s.writeReg r v).elrHyp = s.elrHyp := rfl
@[simp] theorem State.writeReg_hsrEC (s : State) (r : RegNum) (v : Word) : (s.writeReg r v).hsrEC = s.hsrEC := rfl
@[simp] theorem State.writeReg_hsrRest (s : State) (r : RegNum) (v : Word) : (s.writeReg r v).hsrRest = s.hsrRest := rfl
@[simp] theorem State.writeReg_vbar (s : State) (r : RegNum) (v : Word) : (s.writeReg r v).vbar = s.vbar := rfl
@[simp] theorem State.writeReg_hvbar (s : State) (r : RegNum) (v : Word) : (s.writeReg r v).hvbar = s.hvbar := rfl
@[simp] theorem State.writeReg_sctlrTE (s : State) (r : RegNum) (v : Word) : (s.writeReg r v).sctlrTE = s.sctlrTE := rfl
@[simp] theorem State.writeReg_sctlrEE (s : State) (r : RegNum) (v : Word) : (s.writeReg r v).sctlrEE = s.sctlrEE := rfl
@[simp] theorem State.writeReg_sctlrV (s : State) (r : RegNum) (v : Word) : (s.writeReg r v).sctlrV = s.sctlrV := rfl
@[simp] theorem State.writeReg_hsctlrTE (s : State) (r : RegNum) (v : Word) : (s.writeReg r v).hsctlrTE = s.hsctlrTE := rfl
@[simp] theorem State.writeReg_hsctlrEE (s : State) (r : RegNum) (v : Word) : (s.writeReg r v).hsctlrEE = s.hsctlrEE := rfl
@[simp] theorem State.writeReg_hcrTGE (s : State) (r : RegNum) (v : Word) : (s.writeReg r v).hcrTGE = s.hcrTGE := rfl
@[simp] theorem State.writeReg_secure (s : State) (r : RegNum) (v : Word) : (s.writeReg r v).secure = s.secure := rfl
@[simp] theorem State.writeReg_exclusiveLocal (s : State) (r : RegNum) (v : Word) : (s.writeReg r v).exclusiveLocal = s.exclusiveLocal := rfl
@[simp] theorem State.writeReg_eventRegister (s : State) (r : RegNum) (v : Word) : (s.writeReg r v).eventRegister = s.eventRegister := rfl
@[simp] theorem State.writeReg_mem (s : State) (r : RegNum) (v : Word) : (s.writeReg r v).mem = s.mem := rfl
@[simp] theorem State.writeReg_fresh (s : State) (r : RegNum) (v : Word) : (s.writeReg r v).fresh = s.fresh := rfl

/-! ## advance -/

@[simp] theorem advance_gpr (len : Word) (s : State) : (advance len s).gpr = s.gpr := rfl
@[simp] theorem advance_pc (len : Word) (s : State) : (advance len s).pc = s.pc + len := rfl
@[simp] theorem advance_pstate (len : Word) (s : State) : (advance len s).pstate = s.pstate.itAdvanced := rfl
@[simp] theorem advance_spsrFiq (len : Word) (s : State) : (advance len s).spsrFiq = s.spsrFiq := rfl
@[simp] theorem advance_spsrIrq (len : Word) (s : State) : (advance len s).spsrIrq = s.spsrIrq := rfl
@[simp] theorem advance_spsrSvc (len : Word) (s : State) : (advance len s).spsrSvc = s.spsrSvc := rfl
@[simp] theorem advance_spsrMon (len : Word) (s : State) : (advance len s).spsrMon = s.spsrMon := rfl
@[simp] theorem advance_spsrAbt (len : Word) (s : State) : (advance len s).spsrAbt = s.spsrAbt := rfl
@[simp] theorem advance_spsrHyp (len : Word) (s : State) : (advance len s).spsrHyp = s.spsrHyp := rfl
@[simp] theorem advance_spsrUnd (len : Word) (s : State) : (advance len s).spsrUnd = s.spsrUnd := rfl
@[simp] theorem advance_elrHyp (len : Word) (s : State) : (advance len s).elrHyp = s.elrHyp := rfl
@[simp] theorem advance_hsrEC (len : Word) (s : State) : (advance len s).hsrEC = s.hsrEC := rfl
@[simp] theorem advance_hsrRest (len : Word) (s : State) : (advance len s).hsrRest = s.hsrRest := rfl
@[simp] theorem advance_vbar (len : Word) (s : State) : (advance len s).vbar = s.vbar := rfl
@[simp] theorem advance_hvbar (len : Word) (s : State) : (advance len s).hvbar = s.hvbar := rfl
@[simp] theorem advance_sctlrTE (len : Word) (s : State) : (advance len s).sctlrTE = s.sctlrTE := rfl
@[simp] theorem advance_sctlrEE (len : Word) (s : State) : (advance len s).sctlrEE = s.sctlrEE := rfl
@[simp] theorem advance_sctlrV (len : Word) (s : State) : (advance len s).sctlrV = s.sctlrV := rfl
@[simp] theorem advance_hsctlrTE (len : Word) (s : State) : (advance len s).hsctlrTE = s.hsctlrTE := rfl
@[simp] theorem advance_hsctlrEE (len : Word) (s : State) : (advance len s).hsctlrEE = s.hsctlrEE := rfl
@[simp] theorem advance_hcrTGE (len : Word) (s : State) : (advance len s).hcrTGE = s.hcrTGE := rfl
@[simp] theorem advance_secure (len : Word) (s : State) : (advance len s).secure = s.secure := rfl
@[simp] theorem advance_exclusiveLocal (len : Word) (s : State) : (advance len s).exclusiveLocal = s.exclusiveLocal := rfl
@[simp] theorem advance_eventRegister (len : Word) (s : State) : (advance len s).eventRegister = s.eventRegister := rfl
@[simp] theorem advance_mem (len : Word) (s : State) : (advance len s).mem = s.mem := rfl
@[simp] theorem advance_fresh (len : Word) (s : State) : (advance len s).fresh = s.fresh := rfl

/-! ## branchWritePC -/

@[simp] theorem branchWritePC_gpr (a : Word) (s : State) : (branchWritePC a s).gpr = s.gpr := rfl
@[simp] theorem branchWritePC_pc (a : Word) (s : State) : (branchWritePC a s).pc = if s.pstate.t then alignHalf a else alignWord a := rfl
@[simp] theorem branchWritePC_pstate (a : Word) (s : State) : (branchWritePC a s).pstate = s.pstate := rfl
@[simp] theorem branchWritePC_spsrFiq (a : Word) (s : State) : (branchWritePC a s).spsrFiq = s.spsrFiq := rfl
@[simp] theorem branchWritePC_spsrIrq (a : Word) (s : State) : (branchWritePC a s).spsrIrq = s.spsrIrq := rfl
@[simp] theorem branchWritePC_spsrSvc (a : Word) (s : State) : (branchWritePC a s).spsrSvc = s.spsrSvc := rfl
@[simp] theorem branchWritePC_spsrMon (a : Word) (s : State) : (branchWritePC a s).spsrMon = s.spsrMon := rfl
@[simp] theorem branchWritePC_spsrAbt (a : Word) (s : State) : (branchWritePC a s).spsrAbt = s.spsrAbt := rfl
@[simp] theorem branchWritePC_spsrHyp (a : Word) (s : State) : (branchWritePC a s).spsrHyp = s.spsrHyp := rfl
@[simp] theorem branchWritePC_spsrUnd (a : Word) (s : State) : (branchWritePC a s).spsrUnd = s.spsrUnd := rfl
@[simp] theorem branchWritePC_elrHyp (a : Word) (s : State) : (branchWritePC a s).elrHyp = s.elrHyp := rfl
@[simp] theorem branchWritePC_hsrEC (a : Word) (s : State) : (branchWritePC a s).hsrEC = s.hsrEC := rfl
@[simp] theorem branchWritePC_hsrRest (a : Word) (s : State) : (branchWritePC a s).hsrRest = s.hsrRest := rfl
@[simp] theorem branchWritePC_vbar (a : Word) (s : State) : (branchWritePC a s).vbar = s.vbar := rfl
@[simp] theorem branchWritePC_hvbar (a : Word) (s : State) : (branchWritePC a s).hvbar = s.hvbar := rfl
@[simp] theorem branchWritePC_sctlrTE (a : Word) (s : State) : (branchWritePC a s).sctlrTE = s.sctlrTE := rfl
@[simp] theorem branchWritePC_sctlrEE (a : Word) (s : State) : (branchWritePC a s).sctlrEE = s.sctlrEE := rfl
@[simp] theorem branchWritePC_sctlrV (a : Word) (s : State) : (branchWritePC a s).sctlrV = s.sctlrV := rfl
@[simp] theorem branchWritePC_hsctlrTE (a : Word) (s : State) : (branchWritePC a s).hsctlrTE = s.hsctlrTE := rfl
@[simp] theorem branchWritePC_hsctlrEE (a : Word) (s : State) : (branchWritePC a s).hsctlrEE = s.hsctlrEE := rfl
@[simp] theorem branchWritePC_hcrTGE (a : Word) (s : State) : (branchWritePC a s).hcrTGE = s.hcrTGE := rfl
@[simp] theorem branchWritePC_secure (a : Word) (s : State) : (branchWritePC a s).secure = s.secure := rfl
@[simp] theorem branchWritePC_exclusiveLocal (a : Word) (s : State) : (branchWritePC a s).exclusiveLocal = s.exclusiveLocal := rfl
@[simp] theorem branchWritePC_eventRegister (a : Word) (s : State) : (branchWritePC a s).eventRegister = s.eventRegister := rfl
@[simp] theorem branchWritePC_mem (a : Word) (s : State) : (branchWritePC a s).mem = s.mem := rfl
@[simp] theorem branchWritePC_fresh (a : Word) (s : State) : (branchWritePC a s).fresh = s.fresh := rfl

/-! ## enterHyp -/

@[simp] theorem enterHyp_gpr (ec : BitVec 6) (off : Word) (s : State) : (enterHyp ec off s).gpr = s.gpr := rfl
@[simp] theorem enterHyp_pc (ec : BitVec 6) (off : Word) (s : State) : (enterHyp ec off s).pc = s.hvbar + off := rfl
@[simp] theorem enterHyp_pstate (ec : BitVec 6) (off : Word) (s : State) : (enterHyp ec off s).pstate = { s.pstate with mode := .hyp, it := 0, t := s.hsctlrTE, e := s.hsctlrEE, il := false } := rfl
@[simp] theorem enterHyp_spsrFiq (ec : BitVec 6) (off : Word) (s : State) : (enterHyp ec off s).spsrFiq = s.spsrFiq := rfl
@[simp] theorem enterHyp_spsrIrq (ec : BitVec 6) (off : Word) (s : State) : (enterHyp ec off s).spsrIrq = s.spsrIrq := rfl
@[simp] theorem enterHyp_spsrSvc (ec : BitVec 6) (off : Word) (s : State) : (enterHyp ec off s).spsrSvc = s.spsrSvc := rfl
@[simp] theorem enterHyp_spsrMon (ec : BitVec 6) (off : Word) (s : State) : (enterHyp ec off s).spsrMon = s.spsrMon := rfl
@[simp] theorem enterHyp_spsrAbt (ec : BitVec 6) (off : Word) (s : State) : (enterHyp ec off s).spsrAbt = s.spsrAbt := rfl
@[simp] theorem enterHyp_spsrHyp (ec : BitVec 6) (off : Word) (s : State) : (enterHyp ec off s).spsrHyp = s.pstate.image := rfl
@[simp] theorem enterHyp_spsrUnd (ec : BitVec 6) (off : Word) (s : State) : (enterHyp ec off s).spsrUnd = s.spsrUnd := rfl
@[simp] theorem enterHyp_elrHyp (ec : BitVec 6) (off : Word) (s : State) : (enterHyp ec off s).elrHyp = s.pc := rfl
@[simp] theorem enterHyp_hsrEC (ec : BitVec 6) (off : Word) (s : State) : (enterHyp ec off s).hsrEC = ec := rfl
@[simp] theorem enterHyp_hsrRest (ec : BitVec 6) (off : Word) (s : State) : (enterHyp ec off s).hsrRest = Config.freeHsrRest s.fresh := rfl
@[simp] theorem enterHyp_vbar (ec : BitVec 6) (off : Word) (s : State) : (enterHyp ec off s).vbar = s.vbar := rfl
@[simp] theorem enterHyp_hvbar (ec : BitVec 6) (off : Word) (s : State) : (enterHyp ec off s).hvbar = s.hvbar := rfl
@[simp] theorem enterHyp_sctlrTE (ec : BitVec 6) (off : Word) (s : State) : (enterHyp ec off s).sctlrTE = s.sctlrTE := rfl
@[simp] theorem enterHyp_sctlrEE (ec : BitVec 6) (off : Word) (s : State) : (enterHyp ec off s).sctlrEE = s.sctlrEE := rfl
@[simp] theorem enterHyp_sctlrV (ec : BitVec 6) (off : Word) (s : State) : (enterHyp ec off s).sctlrV = s.sctlrV := rfl
@[simp] theorem enterHyp_hsctlrTE (ec : BitVec 6) (off : Word) (s : State) : (enterHyp ec off s).hsctlrTE = s.hsctlrTE := rfl
@[simp] theorem enterHyp_hsctlrEE (ec : BitVec 6) (off : Word) (s : State) : (enterHyp ec off s).hsctlrEE = s.hsctlrEE := rfl
@[simp] theorem enterHyp_hcrTGE (ec : BitVec 6) (off : Word) (s : State) : (enterHyp ec off s).hcrTGE = s.hcrTGE := rfl
@[simp] theorem enterHyp_secure (ec : BitVec 6) (off : Word) (s : State) : (enterHyp ec off s).secure = s.secure := rfl
@[simp] theorem enterHyp_exclusiveLocal (ec : BitVec 6) (off : Word) (s : State) : (enterHyp ec off s).exclusiveLocal = s.exclusiveLocal := rfl
@[simp] theorem enterHyp_eventRegister (ec : BitVec 6) (off : Word) (s : State) : (enterHyp ec off s).eventRegister = s.eventRegister := rfl
@[simp] theorem enterHyp_mem (ec : BitVec 6) (off : Word) (s : State) : (enterHyp ec off s).mem = s.mem := rfl
@[simp] theorem enterHyp_fresh (ec : BitVec 6) (off : Word) (s : State) : (enterHyp ec off s).fresh = s.fresh + 1 := rfl

/-! ## enterUndef -/

@[simp] theorem enterUndef_gpr (s : State) : (enterUndef s).gpr = s.gpr.set (gprSlot .undef 14) (undefReturnAddress s) := rfl
@[simp] theorem enterUndef_pc (s : State) : (enterUndef s).pc = s.exceptionBase + undefVector := rfl
@[simp] theorem enterUndef_pstate (s : State) : (enterUndef s).pstate = { s.pstate with mode := .undef, i := true, it := 0, t := s.sctlrTE, e := s.sctlrEE, il := false } := rfl
@[simp] theorem enterUndef_spsrFiq (s : State) : (enterUndef s).spsrFiq = s.spsrFiq := rfl
@[simp] theorem enterUndef_spsrIrq (s : State) : (enterUndef s).spsrIrq = s.spsrIrq := rfl
@[simp] theorem enterUndef_spsrSvc (s : State) : (enterUndef s).spsrSvc = s.spsrSvc := rfl
@[simp] theorem enterUndef_spsrMon (s : State) : (enterUndef s).spsrMon = s.spsrMon := rfl
@[simp] theorem enterUndef_spsrAbt (s : State) : (enterUndef s).spsrAbt = s.spsrAbt := rfl
@[simp] theorem enterUndef_spsrHyp (s : State) : (enterUndef s).spsrHyp = s.spsrHyp := rfl
@[simp] theorem enterUndef_spsrUnd (s : State) : (enterUndef s).spsrUnd = s.pstate.image := rfl
@[simp] theorem enterUndef_elrHyp (s : State) : (enterUndef s).elrHyp = s.elrHyp := rfl
@[simp] theorem enterUndef_hsrEC (s : State) : (enterUndef s).hsrEC = s.hsrEC := rfl
@[simp] theorem enterUndef_hsrRest (s : State) : (enterUndef s).hsrRest = s.hsrRest := rfl
@[simp] theorem enterUndef_vbar (s : State) : (enterUndef s).vbar = s.vbar := rfl
@[simp] theorem enterUndef_hvbar (s : State) : (enterUndef s).hvbar = s.hvbar := rfl
@[simp] theorem enterUndef_sctlrTE (s : State) : (enterUndef s).sctlrTE = s.sctlrTE := rfl
@[simp] theorem enterUndef_sctlrEE (s : State) : (enterUndef s).sctlrEE = s.sctlrEE := rfl
@[simp] theorem enterUndef_sctlrV (s : State) : (enterUndef s).sctlrV = s.sctlrV := rfl
@[simp] theorem enterUndef_hsctlrTE (s : State) : (enterUndef s).hsctlrTE = s.hsctlrTE := rfl
@[simp] theorem enterUndef_hsctlrEE (s : State) : (enterUndef s).hsctlrEE = s.hsctlrEE := rfl
@[simp] theorem enterUndef_hcrTGE (s : State) : (enterUndef s).hcrTGE = s.hcrTGE := rfl
@[simp] theorem enterUndef_secure (s : State) : (enterUndef s).secure = s.secure := rfl
@[simp] theorem enterUndef_exclusiveLocal (s : State) : (enterUndef s).exclusiveLocal = s.exclusiveLocal := rfl
@[simp] theorem enterUndef_eventRegister (s : State) : (enterUndef s).eventRegister = s.eventRegister := rfl
@[simp] theorem enterUndef_mem (s : State) : (enterUndef s).mem = s.mem := rfl
@[simp] theorem enterUndef_fresh (s : State) : (enterUndef s).fresh = s.fresh := rfl

/-! ## exceptionReturn -/

@[simp] theorem exceptionReturn_gpr (a spsr : Word) (s : State) : (exceptionReturn a spsr s).gpr = s.gpr := rfl
@[simp] theorem exceptionReturn_pc (a spsr : Word) (s : State) : (exceptionReturn a spsr s).pc = if (setPstateFromPsr spsr (illegalReturn spsr s) s.pstate).t then alignHalf a else alignWord a := rfl
@[simp] theorem exceptionReturn_pstate (a spsr : Word) (s : State) : (exceptionReturn a spsr s).pstate = setPstateFromPsr spsr (illegalReturn spsr s) s.pstate := rfl
@[simp] theorem exceptionReturn_spsrFiq (a spsr : Word) (s : State) : (exceptionReturn a spsr s).spsrFiq = s.spsrFiq := rfl
@[simp] theorem exceptionReturn_spsrIrq (a spsr : Word) (s : State) : (exceptionReturn a spsr s).spsrIrq = s.spsrIrq := rfl
@[simp] theorem exceptionReturn_spsrSvc (a spsr : Word) (s : State) : (exceptionReturn a spsr s).spsrSvc = s.spsrSvc := rfl
@[simp] theorem exceptionReturn_spsrMon (a spsr : Word) (s : State) : (exceptionReturn a spsr s).spsrMon = s.spsrMon := rfl
@[simp] theorem exceptionReturn_spsrAbt (a spsr : Word) (s : State) : (exceptionReturn a spsr s).spsrAbt = s.spsrAbt := rfl
@[simp] theorem exceptionReturn_spsrHyp (a spsr : Word) (s : State) : (exceptionReturn a spsr s).spsrHyp = s.spsrHyp := rfl
@[simp] theorem exceptionReturn_spsrUnd (a spsr : Word) (s : State) : (exceptionReturn a spsr s).spsrUnd = s.spsrUnd := rfl
@[simp] theorem exceptionReturn_elrHyp (a spsr : Word) (s : State) : (exceptionReturn a spsr s).elrHyp = s.elrHyp := rfl
@[simp] theorem exceptionReturn_hsrEC (a spsr : Word) (s : State) : (exceptionReturn a spsr s).hsrEC = s.hsrEC := rfl
@[simp] theorem exceptionReturn_hsrRest (a spsr : Word) (s : State) : (exceptionReturn a spsr s).hsrRest = s.hsrRest := rfl
@[simp] theorem exceptionReturn_vbar (a spsr : Word) (s : State) : (exceptionReturn a spsr s).vbar = s.vbar := rfl
@[simp] theorem exceptionReturn_hvbar (a spsr : Word) (s : State) : (exceptionReturn a spsr s).hvbar = s.hvbar := rfl
@[simp] theorem exceptionReturn_sctlrTE (a spsr : Word) (s : State) : (exceptionReturn a spsr s).sctlrTE = s.sctlrTE := rfl
@[simp] theorem exceptionReturn_sctlrEE (a spsr : Word) (s : State) : (exceptionReturn a spsr s).sctlrEE = s.sctlrEE := rfl
@[simp] theorem exceptionReturn_sctlrV (a spsr : Word) (s : State) : (exceptionReturn a spsr s).sctlrV = s.sctlrV := rfl
@[simp] theorem exceptionReturn_hsctlrTE (a spsr : Word) (s : State) : (exceptionReturn a spsr s).hsctlrTE = s.hsctlrTE := rfl
@[simp] theorem exceptionReturn_hsctlrEE (a spsr : Word) (s : State) : (exceptionReturn a spsr s).hsctlrEE = s.hsctlrEE := rfl
@[simp] theorem exceptionReturn_hcrTGE (a spsr : Word) (s : State) : (exceptionReturn a spsr s).hcrTGE = s.hcrTGE := rfl
@[simp] theorem exceptionReturn_secure (a spsr : Word) (s : State) : (exceptionReturn a spsr s).secure = s.secure := rfl
@[simp] theorem exceptionReturn_exclusiveLocal (a spsr : Word) (s : State) : (exceptionReturn a spsr s).exclusiveLocal = false := rfl
@[simp] theorem exceptionReturn_eventRegister (a spsr : Word) (s : State) : (exceptionReturn a spsr s).eventRegister = true := rfl
@[simp] theorem exceptionReturn_mem (a spsr : Word) (s : State) : (exceptionReturn a spsr s).mem = s.mem := rfl
@[simp] theorem exceptionReturn_fresh (a spsr : Word) (s : State) : (exceptionReturn a spsr s).fresh = s.fresh := rfl

/-! ## takeFree -/

@[simp] theorem takeFree_gpr (s : State) : (takeFree s).2.gpr = s.gpr := rfl
@[simp] theorem takeFree_pc (s : State) : (takeFree s).2.pc = s.pc := rfl
@[simp] theorem takeFree_pstate (s : State) : (takeFree s).2.pstate = s.pstate := rfl
@[simp] theorem takeFree_spsrFiq (s : State) : (takeFree s).2.spsrFiq = s.spsrFiq := rfl
@[simp] theorem takeFree_spsrIrq (s : State) : (takeFree s).2.spsrIrq = s.spsrIrq := rfl
@[simp] theorem takeFree_spsrSvc (s : State) : (takeFree s).2.spsrSvc = s.spsrSvc := rfl
@[simp] theorem takeFree_spsrMon (s : State) : (takeFree s).2.spsrMon = s.spsrMon := rfl
@[simp] theorem takeFree_spsrAbt (s : State) : (takeFree s).2.spsrAbt = s.spsrAbt := rfl
@[simp] theorem takeFree_spsrHyp (s : State) : (takeFree s).2.spsrHyp = s.spsrHyp := rfl
@[simp] theorem takeFree_spsrUnd (s : State) : (takeFree s).2.spsrUnd = s.spsrUnd := rfl
@[simp] theorem takeFree_elrHyp (s : State) : (takeFree s).2.elrHyp = s.elrHyp := rfl
@[simp] theorem takeFree_hsrEC (s : State) : (takeFree s).2.hsrEC = s.hsrEC := rfl
@[simp] theorem takeFree_hsrRest (s : State) : (takeFree s).2.hsrRest = s.hsrRest := rfl
@[simp] theorem takeFree_vbar (s : State) : (takeFree s).2.vbar = s.vbar := rfl
@[simp] theorem takeFree_hvbar (s : State) : (takeFree s).2.hvbar = s.hvbar := rfl
@[simp] theorem takeFree_sctlrTE (s : State) : (takeFree s).2.sctlrTE = s.sctlrTE := rfl
@[simp] theorem takeFree_sctlrEE (s : State) : (takeFree s).2.sctlrEE = s.sctlrEE := rfl
@[simp] theorem takeFree_sctlrV (s : State) : (takeFree s).2.sctlrV = s.sctlrV := rfl
@[simp] theorem takeFree_hsctlrTE (s : State) : (takeFree s).2.hsctlrTE = s.hsctlrTE := rfl
@[simp] theorem takeFree_hsctlrEE (s : State) : (takeFree s).2.hsctlrEE = s.hsctlrEE := rfl
@[simp] theorem takeFree_hcrTGE (s : State) : (takeFree s).2.hcrTGE = s.hcrTGE := rfl
@[simp] theorem takeFree_secure (s : State) : (takeFree s).2.secure = s.secure := rfl
@[simp] theorem takeFree_exclusiveLocal (s : State) : (takeFree s).2.exclusiveLocal = s.exclusiveLocal := rfl
@[simp] theorem takeFree_eventRegister (s : State) : (takeFree s).2.eventRegister = s.eventRegister := rfl
@[simp] theorem takeFree_mem (s : State) : (takeFree s).2.mem = s.mem := rfl
@[simp] theorem takeFree_fresh (s : State) : (takeFree s).2.fresh = s.fresh + 1 := rfl

/-! ## bxWritePC -/

@[simp] theorem bxWritePC_gpr (a : Word) (s : State) : (bxWritePC a s).gpr = s.gpr := by unfold bxWritePC; split <;> rfl
@[simp] theorem bxWritePC_spsrFiq (a : Word) (s : State) : (bxWritePC a s).spsrFiq = s.spsrFiq := by unfold bxWritePC; split <;> rfl
@[simp] theorem bxWritePC_spsrIrq (a : Word) (s : State) : (bxWritePC a s).spsrIrq = s.spsrIrq := by unfold bxWritePC; split <;> rfl
@[simp] theorem bxWritePC_spsrSvc (a : Word) (s : State) : (bxWritePC a s).spsrSvc = s.spsrSvc := by unfold bxWritePC; split <;> rfl
@[simp] theorem bxWritePC_spsrMon (a : Word) (s : State) : (bxWritePC a s).spsrMon = s.spsrMon := by unfold bxWritePC; split <;> rfl
@[simp] theorem bxWritePC_spsrAbt (a : Word) (s : State) : (bxWritePC a s).spsrAbt = s.spsrAbt := by unfold bxWritePC; split <;> rfl
@[simp] theorem bxWritePC_spsrHyp (a : Word) (s : State) : (bxWritePC a s).spsrHyp = s.spsrHyp := by unfold bxWritePC; split <;> rfl
@[simp] theorem bxWritePC_spsrUnd (a : Word) (s : State) : (bxWritePC a s).spsrUnd = s.spsrUnd := by unfold bxWritePC; split <;> rfl
@[simp] theorem bxWritePC_elrHyp (a : Word) (s : State) : (bxWritePC a s).elrHyp = s.elrHyp := by unfold bxWritePC; split <;> rfl
@[simp] theorem bxWritePC_hsrEC (a : Word) (s : State) : (bxWritePC a s).hsrEC = s.hsrEC := by unfold bxWritePC; split <;> rfl
@[simp] theorem bxWritePC_hsrRest (a : Word) (s : State) : (bxWritePC a s).hsrRest = s.hsrRest := by unfold bxWritePC; split <;> rfl
@[simp] theorem bxWritePC_vbar (a : Word) (s : State) : (bxWritePC a s).vbar = s.vbar := by unfold bxWritePC; split <;> rfl
@[simp] theorem bxWritePC_hvbar (a : Word) (s : State) : (bxWritePC a s).hvbar = s.hvbar := by unfold bxWritePC; split <;> rfl
@[simp] theorem bxWritePC_sctlrTE (a : Word) (s : State) : (bxWritePC a s).sctlrTE = s.sctlrTE := by unfold bxWritePC; split <;> rfl
@[simp] theorem bxWritePC_sctlrEE (a : Word) (s : State) : (bxWritePC a s).sctlrEE = s.sctlrEE := by unfold bxWritePC; split <;> rfl
@[simp] theorem bxWritePC_sctlrV (a : Word) (s : State) : (bxWritePC a s).sctlrV = s.sctlrV := by unfold bxWritePC; split <;> rfl
@[simp] theorem bxWritePC_hsctlrTE (a : Word) (s : State) : (bxWritePC a s).hsctlrTE = s.hsctlrTE := by unfold bxWritePC; split <;> rfl
@[simp] theorem bxWritePC_hsctlrEE (a : Word) (s : State) : (bxWritePC a s).hsctlrEE = s.hsctlrEE := by unfold bxWritePC; split <;> rfl
@[simp] theorem bxWritePC_hcrTGE (a : Word) (s : State) : (bxWritePC a s).hcrTGE = s.hcrTGE := by unfold bxWritePC; split <;> rfl
@[simp] theorem bxWritePC_secure (a : Word) (s : State) : (bxWritePC a s).secure = s.secure := by unfold bxWritePC; split <;> rfl
@[simp] theorem bxWritePC_exclusiveLocal (a : Word) (s : State) : (bxWritePC a s).exclusiveLocal = s.exclusiveLocal := by unfold bxWritePC; split <;> rfl
@[simp] theorem bxWritePC_eventRegister (a : Word) (s : State) : (bxWritePC a s).eventRegister = s.eventRegister := by unfold bxWritePC; split <;> rfl
@[simp] theorem bxWritePC_mem (a : Word) (s : State) : (bxWritePC a s).mem = s.mem := by unfold bxWritePC; split <;> rfl
@[simp] theorem bxWritePC_fresh (a : Word) (s : State) : (bxWritePC a s).fresh = s.fresh := by unfold bxWritePC; split <;> rfl

/-! ## aluWritePC -/

@[simp] theorem aluWritePC_gpr (a : Word) (s : State) : (aluWritePC a s).gpr = s.gpr := by unfold aluWritePC; split <;> simp
@[simp] theorem aluWritePC_spsrFiq (a : Word) (s : State) : (aluWritePC a s).spsrFiq = s.spsrFiq := by unfold aluWritePC; split <;> simp
@[simp] theorem aluWritePC_spsrIrq (a : Word) (s : State) : (aluWritePC a s).spsrIrq = s.spsrIrq := by unfold aluWritePC; split <;> simp
@[simp] theorem aluWritePC_spsrSvc (a : Word) (s : State) : (aluWritePC a s).spsrSvc = s.spsrSvc := by unfold aluWritePC; split <;> simp
@[simp] theorem aluWritePC_spsrMon (a : Word) (s : State) : (aluWritePC a s).spsrMon = s.spsrMon := by unfold aluWritePC; split <;> simp
@[simp] theorem aluWritePC_spsrAbt (a : Word) (s : State) : (aluWritePC a s).spsrAbt = s.spsrAbt := by unfold aluWritePC; split <;> simp
@[simp] theorem aluWritePC_spsrHyp (a : Word) (s : State) : (aluWritePC a s).spsrHyp = s.spsrHyp := by unfold aluWritePC; split <;> simp
@[simp] theorem aluWritePC_spsrUnd (a : Word) (s : State) : (aluWritePC a s).spsrUnd = s.spsrUnd := by unfold aluWritePC; split <;> simp
@[simp] theorem aluWritePC_elrHyp (a : Word) (s : State) : (aluWritePC a s).elrHyp = s.elrHyp := by unfold aluWritePC; split <;> simp
@[simp] theorem aluWritePC_hsrEC (a : Word) (s : State) : (aluWritePC a s).hsrEC = s.hsrEC := by unfold aluWritePC; split <;> simp
@[simp] theorem aluWritePC_hsrRest (a : Word) (s : State) : (aluWritePC a s).hsrRest = s.hsrRest := by unfold aluWritePC; split <;> simp
@[simp] theorem aluWritePC_vbar (a : Word) (s : State) : (aluWritePC a s).vbar = s.vbar := by unfold aluWritePC; split <;> simp
@[simp] theorem aluWritePC_hvbar (a : Word) (s : State) : (aluWritePC a s).hvbar = s.hvbar := by unfold aluWritePC; split <;> simp
@[simp] theorem aluWritePC_sctlrTE (a : Word) (s : State) : (aluWritePC a s).sctlrTE = s.sctlrTE := by unfold aluWritePC; split <;> simp
@[simp] theorem aluWritePC_sctlrEE (a : Word) (s : State) : (aluWritePC a s).sctlrEE = s.sctlrEE := by unfold aluWritePC; split <;> simp
@[simp] theorem aluWritePC_sctlrV (a : Word) (s : State) : (aluWritePC a s).sctlrV = s.sctlrV := by unfold aluWritePC; split <;> simp
@[simp] theorem aluWritePC_hsctlrTE (a : Word) (s : State) : (aluWritePC a s).hsctlrTE = s.hsctlrTE := by unfold aluWritePC; split <;> simp
@[simp] theorem aluWritePC_hsctlrEE (a : Word) (s : State) : (aluWritePC a s).hsctlrEE = s.hsctlrEE := by unfold aluWritePC; split <;> simp
@[simp] theorem aluWritePC_hcrTGE (a : Word) (s : State) : (aluWritePC a s).hcrTGE = s.hcrTGE := by unfold aluWritePC; split <;> simp
@[simp] theorem aluWritePC_secure (a : Word) (s : State) : (aluWritePC a s).secure = s.secure := by unfold aluWritePC; split <;> simp
@[simp] theorem aluWritePC_exclusiveLocal (a : Word) (s : State) : (aluWritePC a s).exclusiveLocal = s.exclusiveLocal := by unfold aluWritePC; split <;> simp
@[simp] theorem aluWritePC_eventRegister (a : Word) (s : State) : (aluWritePC a s).eventRegister = s.eventRegister := by unfold aluWritePC; split <;> simp
@[simp] theorem aluWritePC_mem (a : Word) (s : State) : (aluWritePC a s).mem = s.mem := by unfold aluWritePC; split <;> simp
@[simp] theorem aluWritePC_fresh (a : Word) (s : State) : (aluWritePC a s).fresh = s.fresh := by unfold aluWritePC; split <;> simp

/-! ## branchTo -/

@[simp] theorem branchTo_gpr (a : Word) (s : State) : (branchTo a s).gpr = s.gpr := by simp [branchTo]
@[simp] theorem branchTo_spsrFiq (a : Word) (s : State) : (branchTo a s).spsrFiq = s.spsrFiq := by simp [branchTo]
@[simp] theorem branchTo_spsrIrq (a : Word) (s : State) : (branchTo a s).spsrIrq = s.spsrIrq := by simp [branchTo]
@[simp] theorem branchTo_spsrSvc (a : Word) (s : State) : (branchTo a s).spsrSvc = s.spsrSvc := by simp [branchTo]
@[simp] theorem branchTo_spsrMon (a : Word) (s : State) : (branchTo a s).spsrMon = s.spsrMon := by simp [branchTo]
@[simp] theorem branchTo_spsrAbt (a : Word) (s : State) : (branchTo a s).spsrAbt = s.spsrAbt := by simp [branchTo]
@[simp] theorem branchTo_spsrHyp (a : Word) (s : State) : (branchTo a s).spsrHyp = s.spsrHyp := by simp [branchTo]
@[simp] theorem branchTo_spsrUnd (a : Word) (s : State) : (branchTo a s).spsrUnd = s.spsrUnd := by simp [branchTo]
@[simp] theorem branchTo_elrHyp (a : Word) (s : State) : (branchTo a s).elrHyp = s.elrHyp := by simp [branchTo]
@[simp] theorem branchTo_hsrEC (a : Word) (s : State) : (branchTo a s).hsrEC = s.hsrEC := by simp [branchTo]
@[simp] theorem branchTo_hsrRest (a : Word) (s : State) : (branchTo a s).hsrRest = s.hsrRest := by simp [branchTo]
@[simp] theorem branchTo_vbar (a : Word) (s : State) : (branchTo a s).vbar = s.vbar := by simp [branchTo]
@[simp] theorem branchTo_hvbar (a : Word) (s : State) : (branchTo a s).hvbar = s.hvbar := by simp [branchTo]
@[simp] theorem branchTo_sctlrTE (a : Word) (s : State) : (branchTo a s).sctlrTE = s.sctlrTE := by simp [branchTo]
@[simp] theorem branchTo_sctlrEE (a : Word) (s : State) : (branchTo a s).sctlrEE = s.sctlrEE := by simp [branchTo]
@[simp] theorem branchTo_sctlrV (a : Word) (s : State) : (branchTo a s).sctlrV = s.sctlrV := by simp [branchTo]
@[simp] theorem branchTo_hsctlrTE (a : Word) (s : State) : (branchTo a s).hsctlrTE = s.hsctlrTE := by simp [branchTo]
@[simp] theorem branchTo_hsctlrEE (a : Word) (s : State) : (branchTo a s).hsctlrEE = s.hsctlrEE := by simp [branchTo]
@[simp] theorem branchTo_hcrTGE (a : Word) (s : State) : (branchTo a s).hcrTGE = s.hcrTGE := by simp [branchTo]
@[simp] theorem branchTo_secure (a : Word) (s : State) : (branchTo a s).secure = s.secure := by simp [branchTo]
@[simp] theorem branchTo_exclusiveLocal (a : Word) (s : State) : (branchTo a s).exclusiveLocal = s.exclusiveLocal := by simp [branchTo]
@[simp] theorem branchTo_eventRegister (a : Word) (s : State) : (branchTo a s).eventRegister = s.eventRegister := by simp [branchTo]
@[simp] theorem branchTo_mem (a : Word) (s : State) : (branchTo a s).mem = s.mem := by simp [branchTo]
@[simp] theorem branchTo_fresh (a : Word) (s : State) : (branchTo a s).fresh = s.fresh := by simp [branchTo]

/-! ## writeResult -/

@[simp] theorem writeResult_spsrFiq (k : AddForm) (w : Word) (x : Nzcv) (s : State) : (writeResult k w x s).spsrFiq = s.spsrFiq := by unfold writeResult; split <;> rfl
@[simp] theorem writeResult_spsrIrq (k : AddForm) (w : Word) (x : Nzcv) (s : State) : (writeResult k w x s).spsrIrq = s.spsrIrq := by unfold writeResult; split <;> rfl
@[simp] theorem writeResult_spsrSvc (k : AddForm) (w : Word) (x : Nzcv) (s : State) : (writeResult k w x s).spsrSvc = s.spsrSvc := by unfold writeResult; split <;> rfl
@[simp] theorem writeResult_spsrMon (k : AddForm) (w : Word) (x : Nzcv) (s : State) : (writeResult k w x s).spsrMon = s.spsrMon := by unfold writeResult; split <;> rfl
@[simp] theorem writeResult_spsrAbt (k : AddForm) (w : Word) (x : Nzcv) (s : State) : (writeResult k w x s).spsrAbt = s.spsrAbt := by unfold writeResult; split <;> rfl
@[simp] theorem writeResult_spsrHyp (k : AddForm) (w : Word) (x : Nzcv) (s : State) : (writeResult k w x s).spsrHyp = s.spsrHyp := by unfold writeResult; split <;> rfl
@[simp] theorem writeResult_spsrUnd (k : AddForm) (w : Word) (x : Nzcv) (s : State) : (writeResult k w x s).spsrUnd = s.spsrUnd := by unfold writeResult; split <;> rfl
@[simp] theorem writeResult_elrHyp (k : AddForm) (w : Word) (x : Nzcv) (s : State) : (writeResult k w x s).elrHyp = s.elrHyp := by unfold writeResult; split <;> rfl
@[simp] theorem writeResult_hsrEC (k : AddForm) (w : Word) (x : Nzcv) (s : State) : (writeResult k w x s).hsrEC = s.hsrEC := by unfold writeResult; split <;> rfl
@[simp] theorem writeResult_hsrRest (k : AddForm) (w : Word) (x : Nzcv) (s : State) : (writeResult k w x s).hsrRest = s.hsrRest := by unfold writeResult; split <;> rfl
@[simp] theorem writeResult_vbar (k : AddForm) (w : Word) (x : Nzcv) (s : State) : (writeResult k w x s).vbar = s.vbar := by unfold writeResult; split <;> rfl
@[simp] theorem writeResult_hvbar (k : AddForm) (w : Word) (x : Nzcv) (s : State) : (writeResult k w x s).hvbar = s.hvbar := by unfold writeResult; split <;> rfl
@[simp] theorem writeResult_sctlrTE (k : AddForm) (w : Word) (x : Nzcv) (s : State) : (writeResult k w x s).sctlrTE = s.sctlrTE := by unfold writeResult; split <;> rfl
@[simp] theorem writeResult_sctlrEE (k : AddForm) (w : Word) (x : Nzcv) (s : State) : (writeResult k w x s).sctlrEE = s.sctlrEE := by unfold writeResult; split <;> rfl
@[simp] theorem writeResult_sctlrV (k : AddForm) (w : Word) (x : Nzcv) (s : State) : (writeResult k w x s).sctlrV = s.sctlrV := by unfold writeResult; split <;> rfl
@[simp] theorem writeResult_hsctlrTE (k : AddForm) (w : Word) (x : Nzcv) (s : State) : (writeResult k w x s).hsctlrTE = s.hsctlrTE := by unfold writeResult; split <;> rfl
@[simp] theorem writeResult_hsctlrEE (k : AddForm) (w : Word) (x : Nzcv) (s : State) : (writeResult k w x s).hsctlrEE = s.hsctlrEE := by unfold writeResult; split <;> rfl
@[simp] theorem writeResult_hcrTGE (k : AddForm) (w : Word) (x : Nzcv) (s : State) : (writeResult k w x s).hcrTGE = s.hcrTGE := by unfold writeResult; split <;> rfl
@[simp] theorem writeResult_secure (k : AddForm) (w : Word) (x : Nzcv) (s : State) : (writeResult k w x s).secure = s.secure := by unfold writeResult; split <;> rfl
@[simp] theorem writeResult_exclusiveLocal (k : AddForm) (w : Word) (x : Nzcv) (s : State) : (writeResult k w x s).exclusiveLocal = s.exclusiveLocal := by unfold writeResult; split <;> rfl
@[simp] theorem writeResult_eventRegister (k : AddForm) (w : Word) (x : Nzcv) (s : State) : (writeResult k w x s).eventRegister = s.eventRegister := by unfold writeResult; split <;> rfl
@[simp] theorem writeResult_mem (k : AddForm) (w : Word) (x : Nzcv) (s : State) : (writeResult k w x s).mem = s.mem := by unfold writeResult; split <;> rfl
@[simp] theorem writeResult_fresh (k : AddForm) (w : Word) (x : Nzcv) (s : State) : (writeResult k w x s).fresh = s.fresh := by unfold writeResult; split <;> rfl
@[simp] theorem writeResult_gpr (k : AddForm) (w : Word) (x : Nzcv) (s : State) : (writeResult k w x s).gpr = s.gpr.set (gprSlot s.pstate.mode k.d) w := by unfold writeResult; split <;> rfl
@[simp] theorem writeResult_pc (k : AddForm) (w : Word) (x : Nzcv) (s : State) : (writeResult k w x s).pc = s.pc + k.len := by unfold writeResult; split <;> rfl

/-! ## PSTATE -/

@[simp] theorem Pstate.withNzcv_n (p : Pstate) (k : Nzcv) : (p.withNzcv k).n = k.n := rfl
@[simp] theorem Pstate.withNzcv_z (p : Pstate) (k : Nzcv) : (p.withNzcv k).z = k.z := rfl
@[simp] theorem Pstate.withNzcv_c (p : Pstate) (k : Nzcv) : (p.withNzcv k).c = k.c := rfl
@[simp] theorem Pstate.withNzcv_v (p : Pstate) (k : Nzcv) : (p.withNzcv k).v = k.v := rfl
@[simp] theorem Pstate.withNzcv_q (p : Pstate) (k : Nzcv) : (p.withNzcv k).q = p.q := rfl
@[simp] theorem Pstate.withNzcv_it (p : Pstate) (k : Nzcv) : (p.withNzcv k).it = p.it := rfl
@[simp] theorem Pstate.withNzcv_ssbs (p : Pstate) (k : Nzcv) : (p.withNzcv k).ssbs = p.ssbs := rfl
@[simp] theorem Pstate.withNzcv_pan (p : Pstate) (k : Nzcv) : (p.withNzcv k).pan = p.pan := rfl
@[simp] theorem Pstate.withNzcv_dit (p : Pstate) (k : Nzcv) : (p.withNzcv k).dit = p.dit := rfl
@[simp] theorem Pstate.withNzcv_il (p : Pstate) (k : Nzcv) : (p.withNzcv k).il = p.il := rfl
@[simp] theorem Pstate.withNzcv_ge (p : Pstate) (k : Nzcv) : (p.withNzcv k).ge = p.ge := rfl
@[simp] theorem Pstate.withNzcv_e (p : Pstate) (k : Nzcv) : (p.withNzcv k).e = p.e := rfl
@[simp] theorem Pstate.withNzcv_a (p : Pstate) (k : Nzcv) : (p.withNzcv k).a = p.a := rfl
@[simp] theorem Pstate.withNzcv_i (p : Pstate) (k : Nzcv) : (p.withNzcv k).i = p.i := rfl
@[simp] theorem Pstate.withNzcv_f (p : Pstate) (k : Nzcv) : (p.withNzcv k).f = p.f := rfl
@[simp] theorem Pstate.withNzcv_t (p : Pstate) (k : Nzcv) : (p.withNzcv k).t = p.t := rfl
@[simp] theorem Pstate.withNzcv_mode (p : Pstate) (k : Nzcv) : (p.withNzcv k).mode = p.mode := rfl
@[simp] theorem Pstate.itAdvanced_n (p : Pstate) : p.itAdvanced.n = p.n := by unfold Pstate.itAdvanced; split <;> rfl
@[simp] theorem Pstate.itAdvanced_z (p : Pstate) : p.itAdvanced.z = p.z := by unfold Pstate.itAdvanced; split <;> rfl
@[simp] theorem Pstate.itAdvanced_c (p : Pstate) : p.itAdvanced.c = p.c := by unfold Pstate.itAdvanced; split <;> rfl
@[simp] theorem Pstate.itAdvanced_v (p : Pstate) : p.itAdvanced.v = p.v := by unfold Pstate.itAdvanced; split <;> rfl
@[simp] theorem Pstate.itAdvanced_q (p : Pstate) : p.itAdvanced.q = p.q := by unfold Pstate.itAdvanced; split <;> rfl
@[simp] theorem Pstate.itAdvanced_ssbs (p : Pstate) : p.itAdvanced.ssbs = p.ssbs := by unfold Pstate.itAdvanced; split <;> rfl
@[simp] theorem Pstate.itAdvanced_pan (p : Pstate) : p.itAdvanced.pan = p.pan := by unfold Pstate.itAdvanced; split <;> rfl
@[simp] theorem Pstate.itAdvanced_dit (p : Pstate) : p.itAdvanced.dit = p.dit := by unfold Pstate.itAdvanced; split <;> rfl
@[simp] theorem Pstate.itAdvanced_il (p : Pstate) : p.itAdvanced.il = p.il := by unfold Pstate.itAdvanced; split <;> rfl
@[simp] theorem Pstate.itAdvanced_ge (p : Pstate) : p.itAdvanced.ge = p.ge := by unfold Pstate.itAdvanced; split <;> rfl
@[simp] theorem Pstate.itAdvanced_e (p : Pstate) : p.itAdvanced.e = p.e := by unfold Pstate.itAdvanced; split <;> rfl
@[simp] theorem Pstate.itAdvanced_a (p : Pstate) : p.itAdvanced.a = p.a := by unfold Pstate.itAdvanced; split <;> rfl
@[simp] theorem Pstate.itAdvanced_i (p : Pstate) : p.itAdvanced.i = p.i := by unfold Pstate.itAdvanced; split <;> rfl
@[simp] theorem Pstate.itAdvanced_f (p : Pstate) : p.itAdvanced.f = p.f := by unfold Pstate.itAdvanced; split <;> rfl
@[simp] theorem Pstate.itAdvanced_t (p : Pstate) : p.itAdvanced.t = p.t := by unfold Pstate.itAdvanced; split <;> rfl
@[simp] theorem Pstate.itAdvanced_mode (p : Pstate) : p.itAdvanced.mode = p.mode := by unfold Pstate.itAdvanced; split <;> rfl

end Sys2Proof.Machine
end

