-- ==== Sys2Proof/Laws/Operation.lean ====
section
/-! SUPPORT. What each shared operation can answer, and what an instruction can do to the state: one inversion
lemma each, to be cited instead of unfolding. -/

namespace Sys2Proof.Machine

theorem withCondition_next {cond : Option (BitVec 4)} {s t : State} {k : Bool → Result}
    (h : withCondition cond s k = .next t) : ∃ c, cond = some c ∧ k (conditionHolds c s.pstate) = .next t := by
  cases cond with
  | none => cases h
  | some c => exact ⟨c, rfl, h⟩

theorem guarded_next {passed : Bool} {len : Word} {body : State → Result} {s t : State}
    (h : guarded passed len body s = .next t) :
    (passed = true ∧ body s = .next t) ∨ (passed = false ∧ t = advance len s) := by
  cases passed with
  | true => exact .inl ⟨rfl, h⟩
  | false => cases h; exact .inr ⟨rfl, rfl⟩

theorem unpredictable_next {case : Config.UnpredCase} {len : Word} {ex va : State → Result} {s t : State}
    (h : unpredictable case len ex va s = .next t) :
    t = advance len { s with fresh := s.fresh + 1 } ∨ t = takeUndefined { s with fresh := s.fresh + 1 } ∨
      ex { s with fresh := s.fresh + 1 } = .next t ∨ va { s with fresh := s.fresh + 1 } = .next t := by
  unfold unpredictable at h
  split at h
  · cases h
  · split at h
    · cases h; exact .inr (.inl rfl)
    · cases h; exact .inl rfl
    · exact .inr (.inr (.inl h))
    · exact .inr (.inr (.inr h))
    · cases h

theorem conditionalT32_next {len : Word} {body : State → Result} {s t : State}
    (h : conditionalT32 len body s = .next t) : body s = .next t ∨ t = advance len s := by
  obtain ⟨c, -, h⟩ := withCondition_next h
  rcases guarded_next h with ⟨-, h⟩ | ⟨-, h⟩
  · exact .inl h
  · exact .inr h

theorem aluExceptionReturn_next {a len : Word} {s t : State} (h : aluExceptionReturn a len s = .next t) :
    (t = takeUndefined s ∧ (s.pstate.mode = .hyp ∨ s.currentSpsr = none)) ∨
      (∃ spsr, s.pstate.mode ≠ .hyp ∧ s.currentSpsr = some spsr ∧ t = exceptionReturn a spsr s) ∨
      (s.currentSpsr = none ∧ t = advance len s) := by
  unfold aluExceptionReturn at h
  split at h
  · next hm => cases h; exact .inl ⟨rfl, .inl hm⟩
  · next hm =>
    split at h
    · next spsr hs => cases h; exact .inr (.inl ⟨spsr, hm, hs, rfl⟩)
    · next hs =>
      split at h
      · cases h; exact .inl ⟨rfl, .inr hs⟩
      · cases h; exact .inr (.inr ⟨hs, rfl⟩)

/-- Everything an instruction can do to the state. `fresh` is the free-value counter at that point. -/
inductive Effect (i : Instr) (s : State) : State → Prop where
  /-- it is skipped, or runs as a NOP -/
  | advances (fresh : Nat) : Effect i s (advance (lengthInBytes i) { s with fresh := fresh })
  /-- it writes its destination register, and the flags if it is an ADDS -/
  | writes (fresh : Nat) (f : AddForm) (result : Word) (flags : Nzcv) (hd : f.d = destination i) (hpc : f.d ≠ 15#4)
      (hs : f.setflags = setsFlags i) (hl : f.len = lengthInBytes i) :
      Effect i s (writeResult f result flags { s with fresh := fresh })
  /-- it branches, the PC being its destination -/
  | branches (fresh : Nat) (a : Word) (hd : destination i = 15#4) (hs : setsFlags i = false) :
      Effect i s (branchTo a { s with fresh := fresh })
  /-- it branches inside an IT block, UNPREDICTABLE, with an UNKNOWN IT state -/
  | branchesFreeIT (fresh fresh' : Nat) (a : Word) (hi : ∃ dn rm rdn, i = .addT2 dn rm rdn ∧ rm ≠ 15#4)
      (hd : destination i = 15#4) (hit : inITBlock s.pstate.it = true) (hl : lastInITBlock s.pstate.it = false) (hu : isUnpredictable s.pstate.it i = true) :
      Effect i s
        (let t := aluWritePC a { s with fresh := fresh }
         { t with pstate := { t.pstate with it := Config.freeIT fresh' } })
  /-- it is skipped or falls through there, with an UNKNOWN IT state -/
  | advancesFreeIT (fresh fresh' : Nat) (hi : ∃ dn rm rdn, i = .addT2 dn rm rdn ∧ rm ≠ 15#4)
      (hd : destination i = 15#4) (hit : inITBlock s.pstate.it = true) (hl : lastInITBlock s.pstate.it = false) (hu : isUnpredictable s.pstate.it i = true) :
      Effect i s
        (let t := advance 2 { s with fresh := fresh }
         { t with pstate := { t.pstate with it := Config.freeIT fresh' } })
  /-- it returns from an exception -/
  | returns (fresh : Nat) (a spsr : Word) (hd : destination i = 15#4) (hs : setsFlags i = true)
      (hm : s.pstate.mode ≠ .hyp) (hspsr : s.currentSpsr = some spsr) :
      Effect i s (exceptionReturn a spsr { s with fresh := fresh })
  /-- it takes the Undefined Instruction exception -/
  | undefined (fresh : Nat) (hu : isExceptionReturn i = true ∨ isUnpredictable s.pstate.it i = true ∨
      (destination i = 15#4 ∧ setsFlags i = true)) :
      Effect i s (takeUndefined { s with fresh := fresh })

/-- The end of the Operation is one of those effects, for any free-value counter. -/
theorem finish_effect {i : Instr} {f : AddForm} {r : Word × Nzcv} {s t : State} (k : Nat)
    (hd : f.d = destination i) (hs : f.setflags = setsFlags i) (hl : f.len = lengthInBytes i)
    (h : finish f r { s with fresh := k } = .next t) : Effect i s t := by
  unfold finish at h
  split at h
  · next h15 =>
    split at h
    · next hset =>
      have h15' : destination i = 15#4 := hd ▸ h15
      have hset' : setsFlags i = true := hs ▸ hset
      rcases aluExceptionReturn_next h with ⟨rfl, -⟩ | ⟨spsr, hm, hspsr, rfl⟩ | ⟨-, rfl⟩
      · exact .undefined k (.inr (.inr ⟨h15', hset'⟩))
      · exact .returns k _ _ h15' hset' hm hspsr
      · rw [hl]; exact .advances k
    · next hset =>
      cases h
      exact .branches k _ (hd ▸ h15) (by rw [← hs]; simpa using hset)
  · next h15 => cases h; exact .writes k f _ _ hd h15 hs hl

theorem runA1_effect {i : Instr} {cond : RegNum} {f : AddForm} {s t : State} (hd : f.d = destination i)
    (hs : f.setflags = setsFlags i) (hl : f.len = lengthInBytes i) (h : runA1 cond f s = .next t) : Effect i s t := by
  obtain ⟨c, -, h⟩ := withCondition_next h
  rcases guarded_next h with ⟨-, h⟩ | ⟨-, rfl⟩
  · exact finish_effect s.fresh hd hs hl h
  · rw [hl]; exact .advances s.fresh

theorem runT1_effect {i : Instr} {f : AddForm} {s t : State} (hd : f.d = destination i)
    (hs : f.setflags = setsFlags i) (hl : f.len = lengthInBytes i) (h : runT1 f s = .next t) : Effect i s t := by
  rcases conditionalT32_next h with h | rfl
  · exact finish_effect s.fresh hd hs hl h
  · rw [hl]; exact .advances s.fresh

theorem conditionalT32_branchUnknown_effect {i : Instr} {s t : State} (k : Nat)
    (hd : destination i = 15#4) (hs : setsFlags i = false)
    (h : conditionalT32 (lengthInBytes i) branchUnknown { s with fresh := k } = .next t) : Effect i s t := by
  rcases conditionalT32_next h with h | rfl
  · cases h; exact .branches (k + 1) _ hd hs
  · exact .advances k

theorem execAddT2_effect {dn : BitVec 1} {rm : RegNum} {rdn : BitVec 3} {s t : State}
    (h : execAddT2 dn rm rdn s = .next t) : Effect (.addT2 dn rm rdn) s t := by
  unfold execAddT2 at h
  split at h
  · next hpc =>
    have hu : isUnpredictable s.pstate.it (.addT2 dn rm rdn) = true := by
      simp [isUnpredictable, show regDnRdn dn rdn = 15#4 from hpc.1, show rm = 15#4 from hpc.2]
    rcases unpredictable_next h with rfl | rfl | h | h
    · exact .advances (i := .addT2 dn rm rdn) _
    · exact .undefined _ (.inr (.inl hu))
    · exact conditionalT32_branchUnknown_effect _ hpc.1 rfl h
    · exact conditionalT32_branchUnknown_effect _ hpc.1 rfl h
  · next hne =>
    split at h
    · next hpc =>
      obtain ⟨h15, hin, hlast⟩ := hpc
      have hm : rm ≠ 15#4 := fun hm => hne ⟨h15, hm⟩
      have hlast' : lastInITBlock s.pstate.it = false := by simpa using hlast
      have hu : isUnpredictable s.pstate.it (.addT2 dn rm rdn) = true := by
        simp only [isUnpredictable, show regDnRdn dn rdn = 15#4 from h15, hin, Bool.not_eq_true] at hlast ⊢
        simp [hlast]
      have free : ∀ taken, branchFreeIT (formT2 dn rm rdn) taken { s with fresh := s.fresh + 1 } = .next t →
          Effect (.addT2 dn rm rdn) s t := by
        intro taken ht
        cases taken
        · cases ht; exact .advancesFreeIT _ _ ⟨dn, rm, rdn, rfl, hm⟩ h15 hin hlast' hu
        · cases ht; exact .branchesFreeIT _ _ _ ⟨dn, rm, rdn, rfl, hm⟩ h15 hin hlast' hu
      rcases unpredictable_next h with rfl | rfl | h | h
      · exact .advances (i := .addT2 dn rm rdn) _
      · exact .undefined _ (.inr (.inl hu))
      · obtain ⟨c, -, h⟩ := withCondition_next h; exact free _ h
      · exact free _ h
    · rcases conditionalT32_next h with h | rfl
      · exact finish_effect s.fresh rfl rfl rfl h
      · exact .advances (i := .addT2 dn rm rdn) s.fresh

theorem operateFreePc_effect {i : Instr} {f : AddForm} {s t : State} (k : Nat) (hd : f.d = destination i)
    (hs : f.setflags = setsFlags i) (hl : f.len = lengthInBytes i)
    (h : operateFreePc f { s with fresh := k } = .next t) : Effect i s t := by
  unfold operateFreePc readFreePc takeFree at h
  by_cases hn : f.n = 15#4 <;> by_cases hm : f.m = 15#4 <;> simp only [hn, hm, if_true, if_false] at h <;>
    exact finish_effect _ hd hs hl h

theorem checkedT3_effect {i : Instr} {f : AddForm} {s t : State} (k : Nat)
    (hd : f.d = destination i) (hs : f.setflags = setsFlags i) (hl : f.len = lengthInBytes i)
    (hu : f.d = 15#4 ∨ f.n = 15#4 ∨ f.m = 15#4 → isUnpredictable s.pstate.it i = true)
    (h : checkedT3 f { s with fresh := k } = .next t) : Effect i s t := by
  unfold checkedT3 at h
  rw [hl] at h
  have freePc : ∀ j, conditionalT32 (lengthInBytes i) (operateFreePc f) { s with fresh := j } = .next t →
      Effect i s t := by
    intro j hj
    rcases conditionalT32_next hj with hj | rfl
    · exact operateFreePc_effect j hd hs hl hj
    · exact .advances j
  split at h
  · next hp =>
    have hs' : setsFlags i = false := by rw [← hs]; simpa using hp.2
    rcases unpredictable_next h with rfl | rfl | h | h
    · exact .advances _
    · exact .undefined _ (.inr (.inl (hu (.inl hp.1))))
    · exact conditionalT32_branchUnknown_effect _ (hd ▸ hp.1) hs' h
    · cases h; exact .advances _
  · split at h
    · next hp =>
      rcases unpredictable_next h with rfl | rfl | h | h
      · exact .advances _
      · exact .undefined _ (.inr (.inl (hu (.inr (.inl hp)))))
      · exact freePc _ h
      · exact freePc _ h
    · split at h
      · next hp =>
        rcases unpredictable_next h with rfl | rfl | h | h
        · exact .advances _
        · exact .undefined _ (.inr (.inl (hu (.inr (.inr hp)))))
        · exact freePc _ h
        · exact freePc _ h
      · rcases conditionalT32_next h with h | rfl
        · exact finish_effect k hd hs hl h
        · exact .advances k

theorem runT3_effect {i : Instr} {sbz : BitVec 1} {f : AddForm} {s t : State} (hd : f.d = destination i)
    (hs : f.setflags = setsFlags i) (hl : f.len = lengthInBytes i)
    (hu : sbz = 1 ∨ f.d = 15#4 ∨ f.n = 15#4 ∨ f.m = 15#4 → isUnpredictable s.pstate.it i = true)
    (h : runT3 sbz f s = .next t) : Effect i s t := by
  unfold runT3 at h
  split at h
  · next hb =>
    unfold sbzT3 at h
    rw [hl] at h
    rcases unpredictable_next h with rfl | rfl | h | h
    · exact .advances _
    · exact .undefined _ (.inr (.inl (hu (.inl hb))))
    · exact checkedT3_effect _ hd hs hl (fun h => hu (.inr h)) h
    · split at h
      · exact checkedT3_effect _ hd hs hl (fun h => hu (.inr h)) h
      · next hp =>
        rcases conditionalT32_next h with h | rfl
        · cases h; exact .writes _ f _ _ hd (fun h => hp (.inl h)) hs hl
        · exact .advances _
  · exact checkedT3_effect s.fresh hd hs hl (fun h => hu (.inr h)) h

/-- A T3 word with its (0) bit set or the PC as a register is UNPREDICTABLE. -/
theorem unpredictableT3_of {sbz : BitVec 1} {rn rd rm : RegNum} (h : sbz = 1 ∨ rd = 15#4 ∨ rn = 15#4 ∨ rm = 15#4) :
    unpredictableT3 sbz rn rd rm = true := by
  rcases h with rfl | rfl | rfl | rfl <;> simp [unpredictableT3]

/-- What an instruction that answers a next state did. -/
theorem exec_effect {i : Instr} {s t : State} (h : exec i s = .next t) : Effect i s t := by
  cases i with
  | addRrxA1 => exact runA1_effect rfl rfl rfl h
  | addShiftA1 => exact runA1_effect rfl rfl rfl h
  | addsRrxA1 => exact runA1_effect rfl rfl rfl h
  | addsShiftA1 => exact runA1_effect rfl rfl rfl h
  | addsT1 => exact runT1_effect rfl rfl rfl h
  | addT1 => exact runT1_effect rfl rfl rfl h
  | addT2 => exact execAddT2_effect h
  | addRrxT3 => exact runT3_effect rfl rfl rfl unpredictableT3_of h
  | addShiftT3 => exact runT3_effect rfl rfl rfl unpredictableT3_of h
  | addsRrxT3 => exact runT3_effect rfl rfl rfl unpredictableT3_of h
  | addsShiftT3 => exact runT3_effect rfl rfl rfl unpredictableT3_of h

/-- The only next state that comes instead of an instruction is the Illegal Execution state exception's. -/
theorem frontEnd_error_next {s t : State} (h : frontEnd s = .error (.next t)) :
    s.pstate.il = true ∧ t = takeIllegalState s := by
  unfold frontEnd at h
  split at h
  · cases h
  · split at h
    · cases h
    · split at h
      · next hil => cases h; exact ⟨hil, rfl⟩
      · split at h <;> cases h

/-- Performing an instruction answers a next state where no stop is decided, and then the instruction's own. -/
theorem perform_next {i : Instr} {s t : State} (h : perform i s = .next t) :
    decidedStop i s = none ∧ exec i s = .next t := by
  unfold perform at h
  split at h
  · next w _ => cases w <;> cases h
  · next hd => exact ⟨hd, h⟩

/-- What a step that answers a next state did: it took the Illegal Execution state exception, or ran the
instruction at the pc, for which no stop is decided. -/
theorem step_next {s t : State} (h : step s = .next t) :
    (s.pstate.il = true ∧ t = takeIllegalState s) ∨
      ∃ i, frontEnd s = .ok i ∧ decidedStop i s = none ∧ exec i s = .next t := by
  unfold step at h
  split at h
  · next i hi => exact .inr ⟨i, hi, perform_next h⟩
  · next o ho => subst h; exact .inl (frontEnd_error_next ho)

/-- The same of a step that takes the effects 93_implementation_defined.md lists. -/
theorem permittedStep_next {s t : State} (h : permittedStep s = .next t) :
    (s.pstate.il = true ∧ t = takeIllegalState s) ∨ ∃ i, frontEnd s = .ok i ∧ exec i s = .next t := by
  unfold permittedStep at h
  split at h
  · next i hi => exact .inr ⟨i, hi, h⟩
  · next o ho => subst h; exact .inl (frontEnd_error_next ho)

/-- The instruction at the pc: the pc is aligned, the fetch answers, no Illegal Execution state is pending, and
the bits decode to it. -/
theorem frontEnd_ok {s : State} {i : Instr} (h : frontEnd s = .ok i) :
    s.pcAligned = true ∧ s.pstate.il = false ∧
      ∃ bits, fetch s = .ok bits ∧ decodeBits (inITBlock s.pstate.it) bits = .ok i := by
  unfold frontEnd at h
  split at h
  · cases h
  · next ha =>
    split at h
    · cases h
    · next bits hf =>
      split at h
      · cases h
      · next hil =>
        split at h
        · cases h
        · next hd => cases h; exact ⟨by simpa using ha, by simpa using hil, bits, hf, hd⟩

end Sys2Proof.Machine
end

