-- ==== Sys2Proof/Laws/Decided.lean ====
section
/-! SUPPORT. Where a step stops, where it completes, and that a PE of 93_implementation_defined.md does the same where
it does not stop. -/

namespace Sys2Proof.Machine

/-- Where no stop is decided, the instruction has its effect. -/
theorem perform_of_undecided {i : Instr} {s : State} (h : decidedStop i s = none) : perform i s = exec i s := by
  unfold perform
  rw [h]

/-- Where a stop is decided, that is the outcome. -/
theorem perform_of_decided {i : Instr} {s : State} {w : Stop} (h : decidedStop i s = some w) :
    perform i s = stopped w := by
  unfold perform
  rw [h]

/-- A step on an instruction performs it. -/
theorem step_of_frontEnd {i : Instr} {s : State} (h : frontEnd s = .ok i) : step s = perform i s := by
  unfold step
  rw [h]

/-- A next state of the machine is one of every PE of 93_implementation_defined.md. -/
theorem permittedStep_of_step {s t : State} (h : step s = .next t) : permittedStep s = .next t := by
  unfold step at h
  unfold permittedStep
  cases hf : frontEnd s with
  | ok i => rw [hf] at h; exact (perform_next h).2
  | error o => rw [hf] at h; exact h

/-- Everything an instruction can do to the state where no stop is decided for it. -/
inductive StepEffect (i : Instr) (s : State) : State → Prop where
  /-- its condition fails -/
  | advances : StepEffect i s (advance (lengthInBytes i) s)
  /-- it writes its destination register, and the flags if it is an ADDS -/
  | writes (f : AddForm) (result : Word) (flags : Nzcv) (hd : f.d = destination i) (hpc : f.d ≠ 15#4)
      (hs : f.setflags = setsFlags i) (hl : f.len = lengthInBytes i) : StepEffect i s (writeResult f result flags s)
  /-- it branches, the PC being its destination -/
  | branches (a : Word) (hd : destination i = 15#4) (hs : setsFlags i = false)
      (ha : i.isT32 = false → s.pstate.t = false → a.extractLsb' 0 2 ≠ 2#2) : StepEffect i s (branchTo a s)
  /-- it returns from an exception -/
  | returns (a spsr : Word) (hd : destination i = 15#4) (hs : setsFlags i = true) (hm : s.pstate.mode ≠ .hyp)
      (hspsr : s.currentSpsr = some spsr) : StepEffect i s (exceptionReturn a spsr s)

/-- None of them uses a free value. -/
theorem StepEffect.fresh_eq {i : Instr} {s t : State} (h : StepEffect i s t) : t.fresh = s.fresh := by
  cases h with
  | advances => rfl
  | writes f r q => rw [writeResult_eq]
  | branches a => exact aluWritePC_fresh _ _
  | returns a spsr => rfl

/-- The Operation, unless it is an exception return in a mode with no SPSR or in Hyp mode, or an A32 branch to an address
with bits[1:0] 10. -/
theorem operate_completes {i : Instr} {f : AddForm} {s : State} (hd : f.d = destination i)
    (hs : f.setflags = setsFlags i) (hl : f.len = lengthInBytes i)
    (hret : f.d = 15#4 → f.setflags = true → s.pstate.mode ≠ .hyp ∧ s.currentSpsr ≠ none)
    (hbr : f.d = 15#4 → f.setflags = false → i.isT32 = false → s.pstate.t = false →
      (addValues f (s.readReg f.n) (s.readReg f.m) s).1.extractLsb' 0 2 ≠ 2#2) :
    ∃ t, operate f s = .next t ∧ StepEffect i s t := by
  unfold operate finish
  split
  · next h15 =>
    split
    · next hset =>
      obtain ⟨hm, hn⟩ := hret h15 hset
      obtain ⟨spsr, hspsr⟩ := Option.ne_none_iff_exists'.mp hn
      refine ⟨_, ?_, .returns (addValues f (s.readReg f.n) (s.readReg f.m) s).1 spsr (hd ▸ h15) (hs ▸ hset) hm hspsr⟩
      simp [aluExceptionReturn, hm, hspsr]
    · next hset =>
      have hset : f.setflags = false := by simpa using hset
      exact ⟨_, rfl, .branches _ (hd ▸ h15) (hs ▸ hset) (hbr h15 hset)⟩
  · next h15 => exact ⟨_, rfl, .writes f _ _ hd h15 hs hl⟩

theorem guarded_completes {i : Instr} {passed : Bool} {len : Word} {body : State → Result} {s : State}
    (hl : len = lengthInBytes i) (h : passed = true → ∃ t, body s = .next t ∧ StepEffect i s t) :
    ∃ t, guarded passed len body s = .next t ∧ StepEffect i s t := by
  cases passed with
  | true => exact h rfl
  | false => exact ⟨_, rfl, hl ▸ .advances⟩

theorem runA1_completes {i : Instr} {cond : RegNum} {f : AddForm} {s : State} (hd : f.d = destination i)
    (hs : f.setflags = setsFlags i) (hl : f.len = lengthInBytes i) (h : decidedA1 cond f s = none) :
    ∃ t, runA1 cond f s = .next t ∧ StepEffect i s t := by
  refine guarded_completes hl fun hc => operate_completes hd hs hl (fun h15 hset => ?_) fun h15 hset _ ht ha => ?_
  · unfold decidedA1 at h
    rw [if_pos ⟨h15, hc⟩, if_pos hset] at h
    split at h
    · cases h
    · next hm =>
      split at h
      · cases h
      · next hn => exact ⟨hm, hn⟩
  · unfold decidedA1 at h
    rw [if_pos ⟨h15, hc⟩, if_neg (by rw [hset]; decide), if_pos ⟨ht, ha⟩] at h
    cases h

/-- Where no stop is decided for a T32 instruction, the IT state is legal and the instruction's own cases fix none. -/
theorem decidedT32_none {s : State} {own : Option Stop} (h : decidedT32 s own = none) :
    own = none ∧ ∃ c, currentCondT32 s.pstate = some c := by
  unfold decidedT32 at h
  rw [Option.or_eq_none_iff] at h
  obtain ⟨ho, h⟩ := h
  split at h
  · cases h
  · next hl =>
    refine ⟨ho, _, currentCondT32_of_legal ?_⟩
    by_cases h0 : s.pstate.it = 0
    · exact .inl h0
    · exact .inr (Bool.of_not_eq_false fun hi => hl ⟨h0, hi⟩)

/-- The Operation of a T32 instruction, which is no exception return, in a legal IT state. -/
theorem conditionalT32_completes {i : Instr} {f : AddForm} {s : State} {c : BitVec 4} (ht : i.isT32 = true)
    (hd : f.d = destination i) (hs : f.setflags = setsFlags i) (hl : f.len = lengthInBytes i)
    (hc : currentCondT32 s.pstate = some c) (hret : f.d = 15#4 → f.setflags = false) :
    ∃ t, conditionalT32 f.len (operate f) s = .next t ∧ StepEffect i s t := by
  unfold conditionalT32
  rw [hc]
  refine guarded_completes hl fun _ => operate_completes hd hs hl (fun h15 hset => ?_) fun _ _ h => ?_
  · rw [hret h15] at hset; cases hset
  · rw [ht] at h; cases h

theorem execAddT2_completes {dn : BitVec 1} {rm : RegNum} {rdn : BitVec 3} {s : State}
    (h : decidedT32 s (decidedT2 (formT2 dn rm rdn) s) = none) :
    ∃ t, execAddT2 dn rm rdn s = .next t ∧ StepEffect (.addT2 dn rm rdn) s t := by
  obtain ⟨ho, c, hc⟩ := decidedT32_none h
  unfold decidedT2 at ho
  split at ho
  · cases ho
  · next h1 =>
    split at ho
    · cases ho
    · next h2 =>
      have h1' : ¬ (regDnRdn dn rdn = 15#4 ∧ rm = 15#4) := h1
      have h2' : ¬ (regDnRdn dn rdn = 15#4 ∧ inITBlock s.pstate.it = true ∧ ¬ lastInITBlock s.pstate.it = true) := by
        simpa [formT2] using h2
      unfold execAddT2
      dsimp only
      rw [if_neg h1', if_neg h2']
      exact conditionalT32_completes rfl rfl rfl rfl hc fun _ => rfl

theorem runT3_completes {i : Instr} {sbz : BitVec 1} {f : AddForm} {s : State} (ht : i.isT32 = true)
    (hd : f.d = destination i) (hs : f.setflags = setsFlags i) (hl : f.len = lengthInBytes i)
    (hwf : f.d = 15#4 → f.setflags = false) (h : decidedT32 s (decidedT3 sbz f) = none) :
    ∃ t, runT3 sbz f s = .next t ∧ StepEffect i s t := by
  obtain ⟨ho, c, hc⟩ := decidedT32_none h
  unfold decidedT3 at ho
  split at ho
  · cases ho
  · next h1 =>
    split at ho
    · cases ho
    · next h2 =>
      split at ho
      · cases ho
      · next h3 =>
        split at ho
        · cases ho
        · next h4 =>
          unfold runT3
          rw [if_neg h1, checkedT3, if_neg (by simpa using h2), if_neg h3, if_neg h4]
          exact conditionalT32_completes ht hd hs hl hc hwf

/-- Where no stop is decided, a well-formed instruction completes, and with one of those effects. -/
theorem exec_completes_of_undecided {i : Instr} {s : State} (hwf : WellFormed i) (h : decidedStop i s = none) :
    ∃ t, exec i s = .next t ∧ StepEffect i s t := by
  have low : ∀ r : BitVec 3, lowReg r ≠ 15#4 := by decide
  cases i with
  | addRrxA1 | addShiftA1 | addsRrxA1 | addsShiftA1 => exact runA1_completes rfl rfl rfl h
  | addsT1 rm rn rd | addT1 rm rn rd =>
    obtain ⟨-, c, hc⟩ := decidedT32_none h
    exact conditionalT32_completes rfl rfl rfl rfl hc fun hd => absurd hd (low rd)
  | addT2 => exact execAddT2_completes h
  | addRrxT3 | addShiftT3 => exact runT3_completes rfl rfl rfl rfl (fun _ => rfl) h
  | addsRrxT3 | addsShiftT3 =>
    refine runT3_completes rfl rfl rfl rfl (fun hd => ?_) h
    simp_all [WellFormed, Instr.isWellFormed, wellFormedT3, formT3]

/-- A step on a well-formed instruction completes where no stop is decided for it, with one of those effects. -/
theorem step_completes {i : Instr} {s : State} (hf : frontEnd s = .ok i) (hwf : WellFormed i)
    (h : decidedStop i s = none) : ∃ t, step s = .next t ∧ StepEffect i s t := by
  rw [step_of_frontEnd hf, perform_of_undecided h]
  exact exec_completes_of_undecided hwf h

/-- A step on a well-formed instruction that answers a next state had one of those effects. -/
theorem step_effect {i : Instr} {s t : State} (hf : frontEnd s = .ok i) (hwf : WellFormed i) (h : step s = .next t) :
    StepEffect i s t := by
  rw [step_of_frontEnd hf] at h
  obtain ⟨t', ht', he⟩ := exec_completes_of_undecided hwf (perform_next h).1
  rw [(perform_next h).2] at ht'
  cases ht'
  exact he

end Sys2Proof.Machine
end

