-- ==== Sys2Proof/Laws/Memory.lean ====
section
/-! SUPPORT. Memory: reading after writing, and that every memory operation keeps the canonical form. -/

namespace Sys2Proof.Machine

theorem Memory.read_write_same (a : Nat) (b : Byte) (m : List Host.Cell) :
    Memory.read (Memory.write a b m) a = some b := by
  induction m with
  | nil => simp [Memory.write, Memory.read]
  | cons cell rest ih =>
    obtain ⟨k, c⟩ := cell
    unfold Memory.write
    split
    · simp [Memory.read]
    · split
      · simp [Memory.read]
      · next h => simp [Memory.read, ih, Ne.symm h]

theorem Memory.read_write_other {a a' : Nat} (h : a' ≠ a) (b : Byte) (m : List Host.Cell) :
    Memory.read (Memory.write a b m) a' = Memory.read m a' := by
  induction m with
  | nil => simp [Memory.write, Memory.read, Ne.symm h]
  | cons cell rest ih =>
    obtain ⟨k, c⟩ := cell
    unfold Memory.write
    split
    · simp [Memory.read, Ne.symm h]
    · split
      · next hk => subst hk; simp [Memory.read, Ne.symm h]
      · simp only [Memory.read, ih]

/-- The addresses of a memory after a write: the one written and the ones before. -/
theorem Memory.mem_keys_write {a k : Nat} {b : Byte} {m : List Host.Cell}
    (h : k ∈ (Memory.write a b m).map Prod.fst) : k = a ∨ k ∈ m.map Prod.fst := by
  induction m with
  | nil => simpa [Memory.write] using h
  | cons cell rest ih =>
    obtain ⟨j, c⟩ := cell
    unfold Memory.write at h
    split at h
    · simpa using h
    · split at h
      · next hj => subst hj; simp only [List.map_cons, List.mem_cons] at h ⊢; tauto
      · simp only [List.map_cons, List.mem_cons] at h ⊢
        rcases h with h | h
        · exact .inr (.inl h)
        · exact (ih h).imp_right .inr

theorem Memory.wf_nil : Memory.wf [] := by simp [Memory.wf]

theorem Memory.wf_write {a : Nat} (b : Byte) {m : List Host.Cell} (ha : a < 2 ^ 32) (hm : Memory.wf m) :
    Memory.wf (Memory.write a b m) := by
  refine ⟨?_, fun k hk => (Memory.mem_keys_write hk).elim (fun h => h ▸ ha) (hm.2 k)⟩
  obtain ⟨hm, -⟩ := hm
  induction m with
  | nil => simp [Memory.write]
  | cons cell rest ih =>
    obtain ⟨j, c⟩ := cell
    rw [List.map_cons, List.pairwise_cons] at hm
    unfold Memory.write
    split
    · next hj =>
      simp only [List.map_cons, List.pairwise_cons, List.mem_cons]
      exact ⟨fun k hk => hk.elim (fun h => h ▸ hj) (fun h => hj.trans (hm.1 k h)), hm⟩
    · split
      · next hj => subst hj; simpa using hm
      · next h1 h2 =>
        rw [List.map_cons, List.pairwise_cons]
        refine ⟨fun k hk => ?_, ih hm.2⟩
        rcases Memory.mem_keys_write hk with h | h
        · subst h; change j < k; omega
        · exact hm.1 k h

theorem Memory.wf_writeBytes (bs : List Byte) {a : Word} {m : List Host.Cell} (hm : Memory.wf m) :
    Memory.wf (Memory.writeBytes a bs m) := by
  induction bs generalizing a m with
  | nil => exact hm
  | cons b bs ih => exact ih (Memory.wf_write b a.isLt hm)

theorem reset_mem_wf : Memory.wf State.reset.mem := Memory.wf_nil

/-- Placing an opcode-table word keeps the canonical form. -/
theorem placeWord_mem_wf {s : State} (h : Memory.wf s.mem) (nbits w : Nat) : Memory.wf (placeWord s nbits w).mem :=
  Memory.wf_writeBytes _ h

end Sys2Proof.Machine
end

