-- ==== Sys2Proof/Laws/PerInstr.lean ====
section
/-! SUPPORT. The statement made of each instruction: its encoding has as many bytes as the pc advances by
(30_encoding.md R70, R71, R76, R78, R81; 41_helper_functions.md R163). -/

namespace Sys2Proof.Laws.EncodedLength
open Sys2Proof Sys2Proof.Machine

/-- The instruction's bytes in memory are as many as its length says. -/
def Statement (i : Instr) : Prop := (encode i).bytes.length = (lengthInBytes i).toNat

theorem addRrxA1 (cond rn rd rm : RegNum) : Statement (.addRrxA1 cond rn rd rm) := rfl
theorem addShiftA1 (cond rn rd : RegNum) (imm5 : BitVec 5) (stype : BitVec 2) (rm : RegNum) :
    Statement (.addShiftA1 cond rn rd imm5 stype rm) := rfl
theorem addsRrxA1 (cond rn rd rm : RegNum) : Statement (.addsRrxA1 cond rn rd rm) := rfl
theorem addsShiftA1 (cond rn rd : RegNum) (imm5 : BitVec 5) (stype : BitVec 2) (rm : RegNum) :
    Statement (.addsShiftA1 cond rn rd imm5 stype rm) := rfl
theorem addsT1 (rm rn rd : BitVec 3) : Statement (.addsT1 rm rn rd) := rfl
theorem addT1 (rm rn rd : BitVec 3) : Statement (.addT1 rm rn rd) := rfl
theorem addT2 (dn : BitVec 1) (rm : RegNum) (rdn : BitVec 3) : Statement (.addT2 dn rm rdn) := rfl
theorem addRrxT3 (sbz : BitVec 1) (rn rd rm : RegNum) : Statement (.addRrxT3 sbz rn rd rm) := rfl
theorem addShiftT3 (sbz : BitVec 1) (rn : RegNum) (imm3 : BitVec 3) (rd : RegNum) (imm2 stype : BitVec 2)
    (rm : RegNum) : Statement (.addShiftT3 sbz rn imm3 rd imm2 stype rm) := rfl
theorem addsRrxT3 (sbz : BitVec 1) (rn rd rm : RegNum) : Statement (.addsRrxT3 sbz rn rd rm) := rfl
theorem addsShiftT3 (sbz : BitVec 1) (rn : RegNum) (imm3 : BitVec 3) (rd : RegNum) (imm2 stype : BitVec 2)
    (rm : RegNum) : Statement (.addsShiftT3 sbz rn imm3 rd imm2 stype rm) := rfl

end Sys2Proof.Laws.EncodedLength
end

