-- ==== Sys2Proof/Laws/Registers.lean ====
section
/-! SUPPORT. Registers: each number of a mode has a place of its own, and reading after writing. -/

namespace Sys2Proof.Machine

/-- Which registers share a place (10_state.md R23, log 8): the same number, R0 to R7 in every mode, R8 to R12 unless
exactly one mode is FIQ mode, R13 and R14 in one mode only. -/
theorem gprSlot_eq_iff {m m' : Mode} {r r' : RegNum} (hr : r ≠ 15#4) (hr' : r' ≠ 15#4) :
    gprSlot m r = gprSlot m' r' ↔
      r = r' ∧ (r.toNat ≤ 7 ∨ (r.toNat ≤ 12 ∧ (m = .fiq ↔ m' = .fiq)) ∨ m = m') := by
  revert r r'; cases m <;> cases m' <;> decide

theorem gprSlot_injective (m : Mode) {r r' : RegNum} (hr : r ≠ 15#4) (hr' : r' ≠ 15#4)
    (h : gprSlot m r = gprSlot m r') : r = r' := ((gprSlot_eq_iff hr hr').mp h).1

/-- A mode's register never stands where another mode's banked SP or LR stands. -/
theorem gprSlot_undef_lr {m : Mode} (hm : m ≠ .undef) {r : RegNum} (hr : r ≠ 15#4) :
    gprSlot m r ≠ gprSlot .undef 14 := fun h => by
  obtain ⟨rfl, h | ⟨h, -⟩ | h⟩ := (gprSlot_eq_iff hr (by decide)).mp h
  · exact absurd h (by decide)
  · exact absurd h (by decide)
  · exact hm h

theorem State.readReg_pc (s : State) : s.readReg 15 = s.pc + pcReadOffset s.pstate.t := rfl

theorem State.readReg_writeReg_same {s : State} {r : RegNum} (hr : r ≠ 15#4) (v : Word) :
    (s.writeReg r v).readReg r = v := by
  simpa [State.readReg] using fun h => absurd h hr

theorem State.readReg_writeReg_other {s : State} {r r' : RegNum} (hr : r ≠ 15#4) (hne : r' ≠ r) (v : Word) :
    (s.writeReg r v).readReg r' = s.readReg r' := by
  unfold State.readReg
  split
  · rfl
  · next h15 =>
    simp only [State.writeReg_gpr, State.writeReg_pstate]
    refine Vector.getElem_set_ne _ _ fun h => hne (gprSlot_injective s.pstate.mode h15 hr (Fin.ext h.symm))

end Sys2Proof.Machine
end

