-- ==== Sys2Proof/Tests/Slice0.lean ====
section
/-! SUPPORT. The model's own tests. The words are written from the layouts of 30_encoding.md, the results are those of
95_test_vectors.md (its ids stand in the comments), computed there from the rules. -/

namespace Sys2Proof.Tests
open Sys2Proof Sys2Proof.Machine Sys2Proof.Claims

/-! ## Well-formedness: one ill-formed term for each check -/

theorem test_wf_cond : Instr.isWellFormed (.addRrxA1 15 0 1 2) = false := by decide
theorem test_wf_sp_a1 : Instr.isWellFormed (.addsShiftA1 14 13 0 1 0 2) = false := by decide
theorem test_wf_rrx_pattern_a1 : Instr.isWellFormed (.addShiftA1 14 0 0 0 3 2) = false := by decide
theorem test_wf_t2_sp_dest : Instr.isWellFormed (.addT2 1 1 5) = false := by decide
theorem test_wf_t2_sp_rm : Instr.isWellFormed (.addT2 0 13 1) = false := by decide
theorem test_wf_t3_cmn : Instr.isWellFormed (.addsRrxT3 0 1 15 2) = false := by decide
theorem test_wf_t3_sp : Instr.isWellFormed (.addRrxT3 0 13 0 2) = false := by decide
theorem test_wf_rrx_pattern_t3 : Instr.isWellFormed (.addsShiftT3 0 1 0 2 0 3 3) = false := by decide
theorem test_wf_accepts : Instr.isWellFormed (.addShiftT3 0 1 0 15 1 3 15) = true := by decide

/-! ## Decoding: a word of each constructor, bit by bit, and its neighbours -/

/-- What the decoder answers, comparable. -/
def read (inIT : Bool) (b : InstrBits) : Option Instr :=
  match decodeBits inIT b with
  | .ok i => some i
  | .error _ => none

/-- Why the decoder rejects, comparable. -/
def rejection (inIT : Bool) (b : InstrBits) : Option Reject :=
  match decodeBits inIT b with
  | .ok _ => none
  | .error r => some r

-- cond 1110, 0000100, S, Rn, Rd, imm5, stype, 0, Rm (R71)
theorem test_decode_addRrxA1 :
    read false (.a32 0b1110_0000100_0_0100_0011_00000_11_0_0101) = some (.addRrxA1 14 4 3 5) := by decide
theorem test_decode_addShiftA1 :
    read false (.a32 0b1110_0000100_0_0100_0011_00011_00_0_0101) = some (.addShiftA1 14 4 3 3 0 5) := by decide
theorem test_decode_addsRrxA1 :
    read false (.a32 0b1110_0000100_1_0100_0011_00000_11_0_0101) = some (.addsRrxA1 14 4 3 5) := by decide
theorem test_decode_addsShiftA1 :
    read false (.a32 0b0001_0000100_1_1110_0001_10001_10_0_0111) = some (.addsShiftA1 1 14 1 17 2 7) := by decide
-- 0001100, Rm, Rn, Rd (R76, R77)
theorem test_decode_t1 :
    read false (.t16 0b0001100_010_001_000) = some (.addsT1 2 1 0) ∧
    read true (.t16 0b0001100_010_001_000) = some (.addT1 2 1 0) := by decide
-- 01000100, DN, Rm, Rdn (R78)
theorem test_decode_addT2 : read false (.t16 0b01000100_1_0001_000) = some (.addT2 1 1 0) := by decide
-- 11101011000, S, Rn; (0), imm3, Rd, imm2, stype, Rm (R81)
theorem test_decode_addRrxT3 :
    read false (.t32 0b11101011000_0_0100 0b0_000_0011_00_11_0101) = some (.addRrxT3 0 4 3 5) := by decide
theorem test_decode_addShiftT3 :
    read false (.t32 0b11101011000_0_0100 0b0_100_0011_01_10_0101) = some (.addShiftT3 0 4 4 3 1 2 5) := by decide
theorem test_decode_addsRrxT3 :
    read false (.t32 0b11101011000_1_0100 0b0_000_0011_00_11_0101) = some (.addsRrxT3 0 4 3 5) := by decide
theorem test_decode_addsShiftT3 :
    read false (.t32 0b11101011000_1_1001 0b0_111_1000_11_00_1010) = some (.addsShiftT3 0 9 7 8 3 0 10) := by decide
/-- A44, T22, T23, T41: the SP redirects. -/
theorem test_decode_see_sp :
    rejection false (.a32 0xE08D0001) = some .seeAddSpPlusRegister ∧
    rejection false (.t16 0x448D) = some .seeAddSpPlusRegister ∧
    rejection false (.t16 0x4469) = some .seeAddSpPlusRegister ∧
    rejection false (.t32 0xEB0D 0x0001) = some .seeAddSpPlusRegister := by decide
/-- T42, T47: CMN comes before the SP. -/
theorem test_decode_see_cmn :
    rejection false (.t32 0xEB11 0x0F02) = some .seeCmnRegister ∧
    rejection false (.t32 0xEB1D 0x0F02) = some .seeCmnRegister := by decide
/-- A60, A61, and a 16-bit word of no row: cond 1111, bit 4 set, other fixed bits. -/
theorem test_decode_other :
    rejection false (.a32 0xF0810002) = some .notAddRegister ∧
    rejection false (.a32 0xE0810312) = some .notAddRegister ∧
    rejection false (.t16 0xBF08) = some .notAddRegister := by decide
/-- The bytes of R52: least significant first, the first halfword first. -/
theorem test_encode_bytes :
    (encode (.addShiftA1 14 1 0 0 0 2)).bytes = [0x02, 0x00, 0x81, 0xE0] ∧
    (encode (.addShiftT3 0 1 0 0 0 0 2)).bytes = [0x01, 0xEB, 0x02, 0x00] := by decide
/-- The opcode table's numbering: 16-bit rows, T3 rows with hw1 in bits 31:16, A1 rows. -/
theorem test_decode_table_words :
    decodeTableWord 16 0x1888 = some (.addsT1 2 1 0) ∧
    decodeTableWord 32 0xEB140335 = some (.addsRrxT3 0 4 3 5) ∧
    decodeTableWord 32 0xE0943065 = some (.addsRrxA1 14 4 3 5) ∧
    decodeTableWord 32 0xE08D0001 = none := by decide

/-! ## Steps -/

/-- PSTATE in Supervisor mode with the flags NZCV, the IT state and the instruction set given. -/
def pstateOf (t : Bool) (nzcv : BitVec 4) (it : BitVec 8) : Pstate :=
  { Pstate.reset with
    n := nzcv.getLsbD 3, z := nzcv.getLsbD 2, c := nzcv.getLsbD 1, v := nzcv.getLsbD 0, it := it, t := t }

/-- The start state of 95_test_vectors.md part 2: the bytes at 0x8000, two registers, the rest zero. -/
def start (p : Pstate) (bytes : List Byte) (r1 r2 : RegNum × Word) : State :=
  let s := { State.reset with pc := 0x8000, pstate := p, mem := Memory.writeBytes 0x8000 bytes [] }
  (s.writeReg r1.1 r1.2).writeReg r2.1 r2.2

/-- An A32 word, a T32 halfword, a T32 pair at 0x8000. -/
def a32 (nzcv : BitVec 4) (w : Word) (r1 r2 : RegNum × Word) : State :=
  start (pstateOf false nzcv 0) (InstrBits.a32 w).bytes r1 r2
def t16 (nzcv : BitVec 4) (it : BitVec 8) (h : Half) (r1 r2 : RegNum × Word) : State :=
  start (pstateOf true nzcv it) (InstrBits.t16 h).bytes r1 r2
def t32 (nzcv : BitVec 4) (it : BitVec 8) (h1 h2 : Half) (r1 r2 : RegNum × Word) : State :=
  start (pstateOf true nzcv it) (InstrBits.t32 h1 h2).bytes r1 r2

/-- NZCV as four bits. -/
def flags (p : Pstate) : BitVec 4 :=
  BitVec.ofBool p.n ++ BitVec.ofBool p.z ++ BitVec.ofBool p.c ++ BitVec.ofBool p.v

/-- After one step: register `r`, NZCV, the pc, T and IT. -/
def after (r : RegNum) (s : State) : Option (Word × BitVec 4 × Word × Bool × BitVec 8) :=
  match step s with
  | .next t => some (t.readReg r, flags t.pstate, t.pc, t.pstate.t, t.pstate.it)
  | _ => none

/-- A step's refusal or fault. -/
def stop (s : State) : Option (Fault ⊕ Refusal) :=
  match step s with
  | .next _ => none
  | .fault f => some (.inl f)
  | .refused r => some (.inr r)

-- A1
/-- A10 -/
theorem test_addShiftA1_lsl : after 3 (a32 0 0xE0843185 (4, 0x10) (5, 0x30000001)) =
    some (0x80000018, 0, 0x8004, false, 0) := by decide
/-- A14 -/
theorem test_addShiftA1_asr32 : after 3 (a32 0 0xE0843045 (4, 7) (5, 0x80000000)) =
    some (6, 0, 0x8004, false, 0) := by decide
/-- A19 -/
theorem test_addRrxA1 : after 3 (a32 0b0010 0xE0843065 (4, 0) (5, 3)) =
    some (0x80000001, 0b0010, 0x8004, false, 0) := by decide
/-- A21 -/
theorem test_addsRrxA1_carries : after 3 (a32 0b0010 0xE0943065 (4, 0x80000000) (5, 1)) =
    some (0, 0b0111, 0x8004, false, 0) := by decide
/-- A43 -/
theorem test_addsRrxA1_same_register : after 2 (a32 0 0xE0922062 (2, 0xFFFFFFFF) (9, 0)) =
    some (0x7FFFFFFE, 0b0010, 0x8004, false, 0) := by decide
/-- A03 -/
theorem test_addsShiftA1_overflow : after 0 (a32 0 0xE0910002 (1, 0x7FFFFFFF) (2, 1)) =
    some (0x80000000, 0b1001, 0x8004, false, 0) := by decide
/-- A27: a failed condition. -/
theorem test_addsShiftA1_skipped : after 0 (a32 0 0x00900001 (0, 0xFFFFFFFF) (1, 1)) =
    some (0xFFFFFFFF, 0, 0x8004, false, 0) := by decide
/-- A50: the interworking branch to T32 state. -/
theorem test_addShiftA1_interworks : after 0 (a32 0 0xE08FF000 (0, 0x11) (1, 0)) =
    some (0x11, 0, 0x8018, true, 0) := by decide

-- T1
/-- T02 -/
theorem test_addsT1 : after 7 (t16 0 0 0x19FF (7, 0x40000000) (0, 0)) =
    some (0x80000000, 0b1001, 0x8002, true, 0) := by decide
/-- T07 -/
theorem test_addT1_advances_it : after 0 (t16 0 0x1C 0x1888 (1, 3) (2, 4)) =
    some (7, 0, 0x8002, true, 0x18) := by decide
/-- T05 -/
theorem test_addT1_skipped : after 0 (t16 0 0x08 0x1888 (0, 0x55) (1, 0xFFFFFFFF)) =
    some (0x55, 0, 0x8002, true, 0) := by decide

-- T2
/-- T11 -/
theorem test_addT2_reads_pc : after 1 (t16 0 0 0x4479 (1, 0x10) (2, 0)) =
    some (0x8014, 0, 0x8002, true, 0) := by decide
/-- T18: the last instruction of its IT block branches. -/
theorem test_addT2_branches : after 1 (t16 0 0x18 0x448F (1, 0x100) (2, 0)) =
    some (0x100, 0, 0x8104, true, 0) := by decide

-- T3
/-- T30 -/
theorem test_addShiftT3 : after 3 (t32 0 0 0xEB04 0x4365 (4, 0) (5, 0x80000000)) =
    some (0xFFFFC000, 0, 0x8004, true, 0) := by decide
/-- T40: skipped inside an IT block. -/
theorem test_addShiftT3_skipped : after 1 (t32 0b1000 0xA8 0xEB01 0x0002 (1, 0x7FFFFFFF) (2, 1)) =
    some (0x7FFFFFFF, 0b1000, 0x8004, true, 0) := by decide
/-- T32 -/
theorem test_addRrxT3 : after 3 (t32 0b0010 0 0xEB04 0x0335 (4, 0) (5, 3)) =
    some (0x80000001, 0b0010, 0x8004, true, 0) := by decide
/-- T33 -/
theorem test_addsRrxT3 : after 3 (t32 0b0010 0 0xEB14 0x0335 (4, 0x80000000) (5, 1)) =
    some (0, 0b0111, 0x8004, true, 0) := by decide
/-- T35 -/
theorem test_addsShiftT3 : after 8 (t32 0 0 0xEB19 0x78CA (9, 0x80000000) (10, 1)) =
    some (0, 0b0111, 0x8004, true, 0) := by decide
/-- T39: ADDS sets the flags inside an IT block too. -/
theorem test_addsShiftT3_in_it : after 0 (t32 0b1001 0xA8 0xEB11 0x0002 (1, 0xFFFFFFFF) (2, 1)) =
    some (0, 0b0110, 0x8004, true, 0) := by decide

-- Stops
/-- T48: a malformed IT state. -/
theorem test_stop_malformed_it : stop (t16 0 0x10 0x1888 (1, 1) (2, 2)) = some (.inr .malformedIT) := by decide
/-- ADD PC, PC in a malformed IT state: the decode's UNPREDICTABLE comes before the condition (00_scope.md R9). -/
theorem test_stop_decode_first : stop (t16 0 0x10 0x44FF (1, 1) (2, 2)) = some (.inr (.unpredictable .t2PcPc)) := by
  decide
/-- A44: another instruction. -/
theorem test_stop_other_word :
    stop (a32 0 0xE08D0001 (13, 0x2000) (1, 4)) = some (.inr (.rejected .seeAddSpPlusRegister)) := by decide
/-- 20_memory.md R56: reset memory holds nothing. -/
theorem test_stop_unmapped : stop State.reset = some (.inl (.fetchUnmapped 0)) := by decide

-- Exceptions
/-- A58: `ADDS PC, LR, R0` in Hyp mode, with HVBAR 0x1000. -/
def hypState : State :=
  { a32 0 0xE09EF000 (14, 0x9000) (0, 0) with
    hvbar := 0x1000, pstate := { pstateOf false 0 0 with mode := .hyp } }
/-- R194, R199: a real PE enters Hyp mode at HVBAR + 4 with ELR_hyp its own address and exception class 0. -/
theorem test_return_in_hyp :
    (match permittedStep hypState with
      | .next t => some (t.pstate.mode, t.pc, t.elrHyp, t.hsrEC)
      | _ => none) = some (.hyp, 0x1004, 0x8000, 0) := by decide

/-- A55: `ADDS PC, LR, R0` in Supervisor mode, SPSR_svc naming User mode, A32 state, Z set, F masked. -/
def svcState : State := { a32 0 0xE09EF000 (14, 0x9000) (0, 0) with spsrSvc := 0x40000050 }
/-- R160 to R162: it returns to 0x9000 in User mode with the SPSR's flags and masks. -/
theorem test_exception_return :
    (match step svcState with
      | .next t => some (t.pstate.mode, t.pc, flags t.pstate, t.pstate.i, t.pstate.f)
      | _ => none) = some (.user, 0x9000, 0b0100, false, true) := by decide

/-- The same return with PSTATE.IL to be set: SPSR_svc names no mode. -/
def illegalState : State := { svcState with spsrSvc := 0 }
/-- R195: an illegal return sets PSTATE.IL and keeps the mode; the next step takes the exception R199 describes. -/
theorem test_illegal_return :
    (match step illegalState with
      | .next t => some (t.pstate.mode, t.pstate.il)
      | _ => none) = some (.supervisor, true) := by decide
/-- An Illegal Execution state pending in User mode, VBAR 0x2000. -/
def pendingState : State :=
  { a32 0b1000 0xE0810002 (1, 1) (2, 2) with
    vbar := 0x2000, pstate := { pstateOf false 0b1000 0 with mode := .user, il := true } }
/-- R199: Undefined mode at VBAR + 4, LR_und the address plus 4, SPSR_und the old PSTATE (N 31, IL 20, A, I, F 8:6,
mode 10000). -/
theorem test_illegal_state_exception :
    (match step pendingState with
      | .next t => some (t.pstate.mode, t.pc, t.readReg 14, t.spsrUnd)
      | _ => none) = some (.undef, 0x2004, 0x8004, 0x801001D0) := by decide

/-- A state in another mode. -/
def inMode (m : Mode) (s : State) : State := { s with pstate := { s.pstate with mode := m } }

/-! ## `raise Undefined` and `refuse`, as 95_test_vectors.md lists them -/

/-- A51: 0x8008 + 0x12; A52: a target with bits[1:0] 00 goes on. -/
theorem test_stop_branch_target :
    stop (a32 0 0xE08FF000 (0, 0x12) (1, 0)) = some (.inr .branchTargetTen) ∧
    stop (a32 0 0xE081F002 (1, 0xFFFFFFFC) (2, 8)) = none := by decide
/-- A56, A57, A58, and the return in Supervisor mode, which is P_EXC_RETURN's. -/
theorem test_stop_return :
    stop (inMode .user (a32 0 0xE09EF000 (14, 0x9000) (0, 0))) = some (.inr .returnInUserOrSystem) ∧
    stop (inMode .system (a32 0 0xE09EF000 (14, 0x9000) (0, 0))) = some (.inr .returnInUserOrSystem) ∧
    stop hypState = some (.inl (.undefined 0x8000)) ∧ stop svcState = none := by decide
/-- T20, T21 (whatever the flags), T24. -/
theorem test_stop_t2 :
    stop (t16 0 0x14 0x448F (1, 0x100) (2, 0)) = some (.inr (.unpredictable .t2BranchInIT)) ∧
    stop (t16 0b0100 0x14 0x448F (1, 0x100) (2, 0)) = some (.inr (.unpredictable .t2BranchInIT)) ∧
    stop (t16 0 0 0x44FF (1, 0) (2, 0)) = some (.inr (.unpredictable .t2PcPc)) := by decide
/-- T43 to T46. -/
theorem test_stop_t3 :
    stop (t32 0 0 0xEB01 0x0F02 (1, 1) (2, 2)) = some (.inr (.unpredictable .t3DestPc)) ∧
    stop (t32 0 0 0xEB0F 0x0002 (1, 1) (2, 2)) = some (.inr (.unpredictable .t3FirstPc)) ∧
    stop (t32 0 0 0xEB01 0x000F (1, 1) (2, 2)) = some (.inr (.unpredictable .t3SecondPc)) ∧
    stop (t32 0 0 0xEB01 0x8002 (1, 1) (2, 2)) = some (.inr (.unpredictable .t3Sbz)) := by decide

/-! ## The assembler: lines of 95_test_vectors.md and their words -/

/-- The bits of an assembled line. -/
def wordOf (r : Except AsmReject Instr) : Option InstrBits :=
  match r with
  | .ok i => some (encode i)
  | .error _ => none

/-- A10, A13, A21, A25. -/
theorem test_assemble_a32 :
    wordOf (assembleA32 ⟨false, none, none, some 3, 4, 5, some (.lsl 3)⟩) = some (.a32 0xE0843185) ∧
    wordOf (assembleA32 ⟨false, none, none, some 3, 4, 5, some (.lsr 32)⟩) = some (.a32 0xE0843025) ∧
    wordOf (assembleA32 ⟨true, none, none, some 3, 4, 5, some .rrx⟩) = some (.a32 0xE0943065) ∧
    wordOf (assembleA32 ⟨false, some 1, none, none, 0, 1, none⟩) = some (.a32 0x10800001) := by decide
/-- T01, T04, T08, T10, and `ADDEQ R0, R1` inside an IT block, which R97 (e) gives to T2. -/
theorem test_assemble_narrow :
    wordOf (assembleT32 0 ⟨true, none, none, some 0, 1, 2, none⟩) = some (.t16 0x1888) ∧
    wordOf (assembleT32 0x08 ⟨false, some 0, none, some 0, 1, 2, none⟩) = some (.t16 0x1888) ∧
    wordOf (assembleT32 0 ⟨false, none, none, none, 8, 1, none⟩) = some (.t16 0x4488) ∧
    wordOf (assembleT32 0 ⟨false, none, none, some 0, 0, 1, none⟩) = some (.t16 0x4408) ∧
    wordOf (assembleT32 0x08 ⟨false, some 0, none, none, 0, 1, none⟩) = some (.t16 0x4408) := by decide
/-- T26, T36, T39. -/
theorem test_assemble_wide :
    wordOf (assembleT32 0 ⟨false, none, some .wide, some 0, 1, 2, none⟩) = some (.t32 0xEB01 0x0002) ∧
    wordOf (assembleT32 0 ⟨true, none, some .wide, some 12, 14, 11, some (.asr 32)⟩) = some (.t32 0xEB1E 0x0C2B) ∧
    wordOf (assembleT32 0xA8 ⟨true, some 10, some .wide, some 0, 1, 2, none⟩) = some (.t32 0xEB11 0x0002) := by decide
/-- A44, and a condition that disagrees with the block's (R92). -/
theorem test_assemble_refused :
    wordOf (assembleA32 ⟨false, none, none, some 0, 13, 1, none⟩) = none ∧
    wordOf (assembleT32 0x08 ⟨false, some 1, none, some 0, 1, 2, none⟩) = none := by decide

/-! ## Witnesses: for each statement with hypotheses, a state and operands that meet all of them -/

/-- An A32 state in which conditions 1110 and 0000 pass (Z set), with two register values. -/
def stA : State := a32 0b0110 0xE0810002 (1, 0x8000) (2, 3)
/-- A T32 state outside an IT block. -/
def stT : State := t16 0b0110 0 0x1888 (1, 0x8000) (2, 3)
/-- A T32 state inside an IT block with a condition (EQ) that passes, as its last instruction. -/
def stLast : State := t16 0b0110 0x08 0x1888 (1, 0x8000) (2, 3)
/-- The same with a condition (NE) that fails, not as its last instruction. -/
def stFail : State := t16 0b0110 0x14 0x1888 (1, 0x8000) (2, 3)
/-- The same with a condition (EQ) that passes, not as its last instruction. -/
def stInside : State := t16 0b0110 0x04 0x1888 (1, 0x8000) (2, 3)
/-- A malformed IT state. -/
def stMalformed : State := t16 0 0x10 0x1888 (1, 0x8000) (2, 3)
/-- The execution answers a next state. -/
def runs (r : Result) : Bool :=
  match r with
  | .next _ => true
  | _ => false

theorem exists_next {r : Result} (h : runs r = true) : ∃ t, r = .next t := by
  cases r with
  | next t => exact ⟨t, rfl⟩
  | fault f => cases h
  | refused f => cases h

theorem test_witness_DecodeOfEncode :
    (WellFormed (.addShiftA1 14 4 3 3 0 5) ∧ (Instr.addShiftA1 14 4 3 3 0 5).fitsContext true = true) ∧
    (WellFormed (.addsT1 7 7 7) ∧ (Instr.addsT1 7 7 7).fitsContext false = true) ∧
    (WellFormed (.addT1 7 7 7) ∧ (Instr.addT1 7 7 7).fitsContext true = true) ∧
    (WellFormed (.addShiftT3 1 15 7 15 3 3 15) ∧ (Instr.addShiftT3 1 15 7 15 3 3 15).fitsContext false = true) := by
  decide
theorem test_witness_EncodeOfDecode : decodeBits true (.t16 0x1888) = .ok (.addT1 2 1 0) := by rfl
theorem test_witness_DecodeOfEncodedBytes :
    WellFormed (.addsRrxT3 0 4 3 5) ∧ (Instr.addsRrxT3 0 4 3 5).fitsContext false = true ∧
    WellFormed (.addT2 1 15 7) ∧ (Instr.addT2 1 15 7).fitsContext true = true := by decide
theorem test_witness_RedirectedWordsRejected :
    (let w : Word := 0xE08D0001
     w.extractLsb' 21 7 = 0b0000100 ∧ w.getLsbD 4 = false ∧ w.extractLsb' 28 4 ≠ 15#4 ∧ w.extractLsb' 16 4 = 13) ∧
    (let h : Half := 0x448D
     h.extractLsb' 8 8 = 0b01000100 ∧ h.getLsbD 7 = true ∧ h.extractLsb' 0 3 = 0b101) ∧
    (let h : Half := 0x4469
     h.extractLsb' 8 8 = 0b01000100 ∧ h.extractLsb' 3 4 = 13) ∧
    (let hw1 : Half := 0xEB1D
     let hw2 : Half := 0x0F02
     hw1.extractLsb' 5 11 = 0b11101011000 ∧ hw1.getLsbD 4 = true ∧ hw2.extractLsb' 8 4 = 15#4) ∧
    (let hw1 : Half := 0xEB0D
     let hw2 : Half := 0x0F02
     hw1.extractLsb' 5 11 = 0b11101011000 ∧ ¬ (hw1.getLsbD 4 = true ∧ hw2.extractLsb' 8 4 = 15#4) ∧
       hw1.extractLsb' 0 4 = 13) := by decide
theorem test_witness_OtherWordsRejected :
    (0xE1A00000 : Word).extractLsb' 21 7 ≠ 0b0000100 ∧ (0xE0810312 : Word).getLsbD 4 = true ∧
    (0xF0810002 : Word).extractLsb' 28 4 = 15#4 ∧
    (0xBF08 : Half).extractLsb' 9 7 ≠ 0b0001100 ∧ (0xBF08 : Half).extractLsb' 8 8 ≠ 0b01000100 ∧
    (0xEB20 : Half).extractLsb' 5 11 ≠ 0b11101011000 := by decide

-- the shifts, at both ends of the amounts' ranges (30_encoding.md R87)
theorem test_witness_LogicalShiftLeftMultiplies :
    (1 ≤ 1 ∧ 1 ≤ 31 ∧ (shift 3 .lsl 1 false).toNat = 6) ∧ (1 ≤ 31 ∧ 31 ≤ 31 ∧ (shift 3 .lsl 31 true).toNat = 2 ^ 31) := by
  decide
theorem test_witness_LogicalShiftRightDivides :
    (1 ≤ 1 ∧ 1 ≤ 32 ∧ (shift 7 .lsr 1 false).toNat = 3) ∧ (1 ≤ 32 ∧ 32 ≤ 32 ∧ shift 0xFFFFFFFF .lsr 32 true = 0) := by
  decide
theorem test_witness_ArithmeticShiftRightDivides :
    (1 ≤ 1 ∧ 1 ≤ 32 ∧ shift 0xFFFFFFF9 .asr 1 false = 0xFFFFFFFC) ∧
    (1 ≤ 32 ∧ 32 ≤ 32 ∧ shift 0x80000000 .asr 32 true = 0xFFFFFFFF ∧ shift 0x7FFFFFFF .asr 32 true = 0) := by decide
theorem test_witness_RotateRightMovesBits :
    (1 ≤ 1 ∧ 1 ≤ 31 ∧ shift 3 .ror 1 false = 0x80000001) ∧
    (1 ≤ 31 ∧ 31 ≤ 31 ∧ 0 < 32 ∧ shift 0x80000001 .ror 31 true = 3) := by decide
theorem test_witness_RotateWithExtendUsesCarry :
    0 < 31 ∧ 30 < 31 ∧ shift 3 .rrx 1 true = 0x80000001 ∧ shift 3 .rrx 1 false = 1 := by decide

-- encoding A1
theorem test_witness_AddA1WritesSum :
    stA.pstate.t = false ∧ conditionHolds 0 stA.pstate = true ∧ (13 : RegNum) ≠ 15#4 := by decide
theorem test_witness_AddsA1WritesSumAndFlags :
    stA.pstate.t = false ∧ conditionHolds 14 stA.pstate = true ∧ (0 : RegNum) ≠ 15#4 := by decide
theorem test_witness_FailedConditionSkipsA1 :
    stA.pstate.t = false ∧ conditionHolds 1 stA.pstate = false := by decide
/-- Targets (0x8000 plus the operand, Rn = R1, Rm = R0 or R2) with bits[1:0] 00, 11 and, in the third state, 10. -/
theorem test_witness_AddA1ToPcBranches :
    stA.pstate.t = false ∧ conditionHolds 14 stA.pstate = true ∧
    (stA.readReg 1 + operand false 0 0 (stA.readReg 0) stA.pstate.c).extractLsb' 0 2 = 0 ∧
    (stA.readReg 1 + operand false 0 0 (stA.readReg 2) stA.pstate.c).getLsbD 0 = true ∧
    (stA.readReg 1 + operand false 0 1 (stA.readReg 2) stA.pstate.c).extractLsb' 0 2 = 2 := by decide
/-- To User mode in A32 state, and to T32 state inside an IT block. -/
theorem test_witness_ExceptionReturnRestoresState :
    (conditionHolds 14 svcState.pstate = true ∧ svcState.pstate.mode ≠ .hyp ∧
      svcState.currentSpsr = some 0x40000050 ∧ (0x40000050 : Word).extractLsb' 0 5 = Mode.user.bits ∧
      illegalReturn 0x40000050 svcState = false) ∧
    (let s := { svcState with spsrSvc := 0x0000A43F }
     conditionHolds 14 s.pstate = true ∧ s.pstate.mode ≠ .hyp ∧ s.currentSpsr = some 0x0000A43F ∧
      (0x0000A43F : Word).extractLsb' 0 5 = Mode.system.bits ∧ illegalReturn 0x0000A43F s = false) := by decide
/-- SPSR bits 15:10 101001 (the condition GE, mask 01..): T32 state inside an IT block; T32 state with a zero IT; and
A32 state with IT bits inside a block. -/
theorem test_witness_ExceptionReturnRestoresIT :
    let spsrIT (spsr : Word) : BitVec 8 :=
      BitVec.ofNat 8 (4 * (spsr.extractLsb' 10 6).toNat + (spsr.extractLsb' 25 2).toNat)
    let meets (spsr : Word) (t inside : Bool) : Prop :=
      let s := { svcState with spsrSvc := spsr }
      conditionHolds 14 s.pstate = true ∧ s.pstate.mode ≠ .hyp ∧ s.currentSpsr = some spsr ∧
        (match exec (a1 true false 14 14 15#4 0 0 0) s with
          | .next u => u.pstate.t == t
          | _ => false) = true ∧ inITBlock (spsrIT spsr) = inside
    meets 0x0000A43F true true ∧ meets 0x0000003F true false ∧ meets 0x0000A41F false true := by decide
theorem test_witness_IllegalReturnSetsIL :
    conditionHolds 14 illegalState.pstate = true ∧ illegalState.pstate.mode ≠ .hyp ∧
    illegalState.currentSpsr = some 0 ∧ illegalReturn 0 illegalState = true := by decide
theorem test_witness_IllegalReturnEvents :
    (0x0000000F : Word).getLsbD 4 = false ∧
    (∀ m ∈ [Mode.user, .fiq, .irq, .supervisor, .monitor, .abort, .hyp, .undef, .system],
      (0x00000014 : Word).extractLsb' 0 5 ≠ m.bits) ∧
    (0x0000001A : Word).extractLsb' 0 5 = Mode.hyp.bits ∧ level false .user = 0 ∧ level true .hyp = 2 ∧
    level false .monitor = 3 ∧ level false .system = 1 := by decide
theorem test_witness_ExceptionReturnUndefinedInHyp :
    conditionHolds 14 hypState.pstate = true ∧ hypState.pstate.mode = .hyp := by decide
theorem test_witness_ExceptionReturnInUserOrSystem :
    (inMode .user stA).pstate.t = false ∧ conditionHolds 14 (inMode .user stA).pstate = true ∧
    (inMode .user stA).pstate.mode = .user ∧ (inMode .system stA).pstate.t = false ∧
    conditionHolds 14 (inMode .system stA).pstate = true ∧ (inMode .system stA).pstate.mode = .system := by decide

-- encodings T1, T2, T3
theorem test_witness_AddsT1WritesSumAndFlags : stT.pstate.t = true ∧ stT.pstate.it = 0 := by decide
theorem test_witness_passes : passesT32 stT.pstate ∧ passesT32 stLast.pstate ∧ passesT32 stInside.pstate :=
  ⟨.inl rfl, .inr (by decide), .inr (by decide)⟩
theorem test_witness_fails : failsT32 stFail.pstate := by unfold failsT32; decide
theorem test_witness_AddT1WritesSum :
    stLast.pstate.t = true ∧ passesT32 stLast.pstate ∧ stInside.pstate.t = true ∧ passesT32 stInside.pstate :=
  ⟨by decide, .inr (by decide), by decide, .inr (by decide)⟩
theorem test_witness_AddT2WritesSum :
    stT.pstate.t = true ∧ passesT32 stT.pstate ∧ regDnRdn 1 6 ≠ 15#4 :=
  ⟨by decide, .inl rfl, by decide⟩
theorem test_witness_AddT2ToPcBranches :
    (stT.pstate.t = true ∧ passesT32 stT.pstate ∧ (1 : RegNum) ≠ 15#4 ∧ stT.pstate.it = 0) ∧
    (stLast.pstate.t = true ∧ passesT32 stLast.pstate ∧ lastInITBlock stLast.pstate.it = true) :=
  ⟨⟨by decide, .inl rfl, by decide, by decide⟩, by decide, .inr (by decide), by decide⟩
theorem test_witness_AddPcPcOutcomes :
    (stT.pstate.t = true ∧ stT.pstate.it = 0) ∧ (stFail.pstate.t = true ∧ inITBlock stFail.pstate.it = true) := by decide
/-- The third clause's condition fails in `stFail`, and passes in `stInside`. -/
theorem test_witness_BranchInsideITBlockOutcomes :
    (stFail.pstate.t = true ∧ inITBlock stFail.pstate.it = true ∧ lastInITBlock stFail.pstate.it = false) ∧
    failsT32 stFail.pstate ∧
    (stInside.pstate.t = true ∧ inITBlock stInside.pstate.it = true ∧ lastInITBlock stInside.pstate.it = false) ∧
    (1 : RegNum) ≠ 15#4 :=
  ⟨by decide, test_witness_fails, by decide, by decide⟩
theorem test_witness_AddT3WritesSum :
    stT.pstate.t = true ∧ passesT32 stT.pstate ∧ (13 : RegNum) ≠ 15#4 ∧ (1 : RegNum) ≠ 15#4 ∧ (2 : RegNum) ≠ 15#4 :=
  ⟨by decide, .inl rfl, by decide⟩
theorem test_witness_AddsT3WritesSumAndFlags :
    stLast.pstate.t = true ∧ passesT32 stLast.pstate ∧ (0 : RegNum) ≠ 15#4 ∧ (1 : RegNum) ≠ 15#4 ∧ (2 : RegNum) ≠ 15#4 :=
  ⟨by decide, .inr (by decide), by decide⟩
theorem test_witness_AddT3ToPcOutcomes :
    (stT.pstate.t = true ∧ stT.pstate.it = 0) ∧ (stInside.pstate.t = true ∧ inITBlock stInside.pstate.it = true) := by
  decide
theorem test_witness_T3PcSourceOutcomes :
    stT.pstate.t = true ∧ stT.pstate.it = 0 ∧ (0 : RegNum) ≠ 15#4 ∧ (15 : RegNum) = 15#4 := by decide
/-- Outside an IT block and inside one; no operand the PC, and, by the last clause, Rm the PC. -/
theorem test_witness_T3ShouldBeZeroOutcomes :
    (stT.pstate.t = true ∧ stT.pstate.it = 0) ∧ (stInside.pstate.t = true ∧ inITBlock stInside.pstate.it = true) ∧
    ((0 : RegNum) ≠ 15#4 ∧ (1 : RegNum) ≠ 15#4 ∧ (2 : RegNum) ≠ 15#4) ∧ passesT32 stT.pstate ∧
    isUnpredictable stT.pstate.it (t3 false false 0 1 0 0 0 0 15) = true :=
  ⟨by decide, by decide, by decide, .inl rfl, by decide⟩
theorem test_witness_FailedConditionSkipsT32 :
    (Instr.addT2 0 2 1).isT32 = true ∧ stFail.pstate.t = true ∧ failsT32 stFail.pstate ∧
    isUnpredictable stFail.pstate.it (.addT2 0 2 1) = false ∧
    isUnpredictable stFail.pstate.it (.addsShiftT3 0 1 0 0 0 0 2) = false :=
  ⟨by decide, by decide, test_witness_fails, by decide, by decide⟩
theorem test_witness_MalformedITRefused :
    (Instr.addT1 2 1 0).isT32 = true ∧ stMalformed.pstate.it ≠ 0 ∧ inITBlock stMalformed.pstate.it = false ∧
    isUnpredictable stMalformed.pstate.it (.addT1 2 1 0) = false ∧ (Instr.addT2 1 15 7).isT32 = true ∧
    WellFormed (.addT2 1 15 7) ∧ isUnpredictable stMalformed.pstate.it (.addT2 1 15 7) = true := by decide
theorem test_witness_SameRegisterOperands : stA.pstate.t = false ∧ (13 : RegNum) ≠ 15#4 := by decide
theorem test_witness_PcOperandReadsAhead :
    stA.pstate.t = false ∧ (14 : RegNum) ≠ 15#4 ∧ (1 : RegNum) ≠ 15#4 := by decide

-- frames
/-- An ADD, an ADDS, and an ADD to the PC. -/
theorem test_witness_OrdinaryFrame :
    (∃ t, ordinary (.addsT1 2 1 0) stT ∧ exec (.addsT1 2 1 0) stT = .next t) ∧
    (∃ t, ordinary (.addT2 1 1 7) stT ∧ exec (.addT2 1 1 7) stT = .next t) ∧
    (∃ t, ordinary (.addShiftA1 14 1 15 0 0 0) stA ∧ exec (.addShiftA1 14 1 15 0 0 0) stA = .next t) := by
  refine ⟨?_, ?_, ?_⟩
  · obtain ⟨t, h⟩ := exists_next (r := exec (.addsT1 2 1 0) stT) (by decide)
    exact ⟨t, ⟨by decide, by decide⟩, h⟩
  · obtain ⟨t, h⟩ := exists_next (r := exec (.addT2 1 1 7) stT) (by decide)
    exact ⟨t, ⟨by decide, by decide⟩, h⟩
  · obtain ⟨t, h⟩ := exists_next (r := exec (.addShiftA1 14 1 15 0 0 0) stA) (by decide)
    exact ⟨t, ⟨by decide, by decide⟩, h⟩
theorem test_witness_MemoryAndControlsNeverWritten : ∃ t, exec (.addsShiftA1 14 14 15 0 0 0) svcState = .next t :=
  exists_next (by decide)
theorem test_witness_AddNeverWritesFlags :
    ∃ t, setsFlags (.addRrxA1 14 1 0 2) = false ∧ exec (.addRrxA1 14 1 0 2) stA = .next t := by
  obtain ⟨t, h⟩ := exists_next (r := exec (.addRrxA1 14 1 0 2) stA) (by decide)
  exact ⟨t, by decide, h⟩
/-- Another register than the destination R13, and R14 itself when the destination is the PC. -/
theorem test_witness_OtherModesRegistersKept :
    (∃ t, exec (.addShiftA1 14 1 13 0 0 2) stA = .next t ∧
      (19 : Fin 36) ≠ gprSlot stA.pstate.mode (destination (.addShiftA1 14 1 13 0 0 2)) ∧
      (19 : Fin 36) ≠ gprSlot .undef 14) ∧
    (∃ t, exec (.addShiftA1 14 1 15 0 0 0) stA = .next t ∧ destination (.addShiftA1 14 1 15 0 0 0) = 15#4 ∧
      gprSlot stA.pstate.mode 14 ≠ gprSlot .undef 14) := by
  obtain ⟨t, h⟩ := exists_next (r := exec (.addShiftA1 14 1 13 0 0 2) stA) (by decide)
  obtain ⟨t', h'⟩ := exists_next (r := exec (.addShiftA1 14 1 15 0 0 0) stA) (by decide)
  exact ⟨⟨t, h, by decide⟩, t', h', by decide⟩
/-- An exception return to User mode, after which R14 is User mode's own (the second clause's case of a register that is
not shared); and R23 at the ends of its ranges: R7 and R8, R12 and R13, seen from FIQ mode and from another mode. -/
theorem test_witness_banked_registers :
    (∃ t, exec (.addsShiftA1 14 14 15 0 0 0) svcState = .next t) ∧ (14 : RegNum) ≠ 15#4 ∧
    ¬ oneRegister 14 svcState.pstate.mode .user ∧ oneRegister 7 .supervisor .fiq ∧ ¬ oneRegister 8 .supervisor .fiq ∧
    oneRegister 12 .supervisor .user ∧ ¬ oneRegister 12 .fiq .user ∧ ¬ oneRegister 13 .supervisor .user ∧
    oneRegister 13 .fiq .fiq :=
  ⟨exists_next (by decide), by decide⟩
/-- User and System mode are two modes with an R13 each (log 8), FIQ mode has its own R8. -/
theorem test_banked_reads :
    (seenFrom .fiq (stA.writeReg 8 5)).readReg 8 = 0 ∧ (seenFrom .user (stA.writeReg 8 5)).readReg 8 = 5 ∧
    (seenFrom .fiq (stA.writeReg 7 5)).readReg 7 = 5 ∧ (seenFrom .user (stA.writeReg 14 5)).readReg 14 = 0 := by decide

-- whole-machine rules
/-- A word that decodes, and CMN, which the decoder rejects. -/
theorem test_witness_StepRunsDecoded :
    (stA.pcAligned = true ∧ stA.pstate.il = false ∧ fetch stA = .ok (.a32 0xE0810002) ∧
      decodeBits (inITBlock stA.pstate.it) (.a32 0xE0810002) = .ok (.addShiftA1 14 1 0 0 0 2)) ∧
    (let s := t32 0 0 0xEB11 0x0F02 (1, 0) (2, 0)
     s.pcAligned = true ∧ s.pstate.il = false ∧ fetch s = .ok (.t32 0xEB11 0x0F02) ∧
      decodeBits (inITBlock s.pstate.it) (.t32 0xEB11 0x0F02) = .error .seeCmnRegister) :=
  ⟨⟨by decide, by decide, rfl, rfl⟩, by decide, by decide, rfl, rfl⟩
/-- Its stops: ADDS to the PC in Hyp mode, ADD to the PC with a target 0x801A, and an ADD for which there is none. -/
theorem test_witness_steps_stop :
    (let i : Instr := .addsShiftA1 14 14 15 0 0 0
     frontEnd hypState = .ok i ∧ isUnpredictable hypState.pstate.it i = false ∧ returnIn [.hyp] i hypState ∧
       returnIn [.user, .system] i (inMode .system hypState)) ∧
    (let s := a32 0 0xE08FF000 (0, 0x12) (1, 0)
     frontEnd s = .ok (.addShiftA1 14 15 15 0 0 0) ∧ branchesToTen (.addShiftA1 14 15 15 0 0 0) s) ∧
    malformedIT (.addT1 2 1 0) stMalformed.pstate ∧
    (let i : Instr := .addShiftA1 14 1 0 0 0 2
     ¬ malformedIT i stA.pstate ∧ ¬ returnIn [.hyp, .user, .system] i stA ∧ ¬ branchesToTen i stA) := by
  have no : ∀ modes, ¬ returnIn modes (.addShiftA1 14 1 0 0 0 2) stA := fun _ h => by cases h.1
  refine ⟨⟨rfl, by decide, ⟨by decide, ⟨14, rfl, by decide⟩, by decide⟩, ⟨by decide, ⟨14, rfl, by decide⟩, by decide⟩⟩,
    ⟨rfl, ⟨14, rfl, by decide⟩, by decide, by decide, by decide⟩, by unfold malformedIT; decide, ?_, no _, ?_⟩
  · unfold malformedIT; decide
  · exact fun h => absurd h.2.1 (by decide)
/-- An A32 word, a T32 pair, and a T32 halfword that nothing mapped follows. -/
theorem test_witness_FetchIsLittleEndian :
    (stA.readByte stA.pc = some 0x02 ∧ stA.readByte (stA.pc + 1) = some 0x00 ∧ stA.readByte (stA.pc + 2) = some 0x81 ∧
      stA.readByte (stA.pc + 3) = some 0xE0 ∧ stA.pstate.t = false) ∧
    (let s := t32 0 0 0xEB04 0x4365 (4, 0) (5, 0)
     s.readByte s.pc = some 0x04 ∧ s.readByte (s.pc + 1) = some 0xEB ∧ s.readByte (s.pc + 2) = some 0x65 ∧
      s.readByte (s.pc + 3) = some 0x43 ∧ s.pstate.t = true ∧
      (BitVec.ofNat 16 (0x04 + 2 ^ 8 * 0xEB) : Half) &&& 0xFFE0 = 0xEB00) ∧
    (stT.readByte stT.pc = some 0x88 ∧ stT.readByte (stT.pc + 1) = some 0x18 ∧ stT.readByte (stT.pc + 2) = none ∧
      stT.pstate.t = true ∧ (BitVec.ofNat 16 (0x88 + 2 ^ 8 * 0x18) : Half) &&& 0xFFE0 ≠ 0xEB00) := by decide
/-- An A32 pc with bits[1:0] 10, a T32 pc with bit 0 set; the first and the last byte of an A32 word missing, the second
of a T32 halfword, the last of a T3 pair. -/
theorem test_witness_UnfetchableStops :
    let missing (s : State) (k : Nat) : Prop :=
      s.pcAligned = true ∧ (∀ j < k, s.readByte (s.pc + BitVec.ofNat 32 j) ≠ none) ∧
        s.readByte (s.pc + BitVec.ofNat 32 k) = none
    ({ stA with pc := 0x8002 } : State).pcAligned = false ∧ ({ stT with pc := 0x8001 } : State).pcAligned = false ∧
    missing State.reset 0 ∧
    missing (start (pstateOf false 0 0) [0x02, 0x00, 0x81] (1, 0) (2, 0)) 3 ∧
    missing (start (pstateOf true 0 0) [0x88] (1, 0) (2, 0)) 1 ∧
    (missing (start (pstateOf true 0 0) [0x01, 0xEB, 0x02] (1, 0) (2, 0)) 3 ∧
      (BitVec.ofNat 16 (0x01 + 2 ^ 8 * 0xEB) : Half) &&& 0xFFE0 = 0xEB00) := by decide
theorem test_witness_PlacedWordRunsAfterReset :
    decodeTableWord 16 0x1800 = some (.addsT1 0 0 0) ∧ decodeTableWord 32 0x00800060 = some (.addRrxA1 0 0 0 0) ∧
    decodeTableWord 32 0xEB100000 = some (.addsShiftT3 0 0 0 0 0 0 0) ∧
    decidedStop (.addsT1 0 0 0) (State.reset.withFetchWord 16 0x1800) = none := by decide
theorem test_witness_IllegalStateTakesException :
    pendingState.pcAligned = true ∧ fetch pendingState = .ok (.a32 0xE0810002) ∧ pendingState.pstate.il = true :=
  ⟨by decide, rfl, by decide⟩
/-- Both clauses of the completion: an A32 instruction, a T32 instruction inside and outside an IT block. -/
theorem test_witness_InstructionsComplete :
    isUnpredictable stA.pstate.it (.addsShiftA1 14 0 15 0 0 0) = false ∧
    isUnpredictable stT.pstate.it (.addT2 1 1 7) = false ∧ stT.pstate.it = 0 ∧
    isUnpredictable stInside.pstate.it (.addT1 0 0 0) = false ∧ inITBlock stInside.pstate.it = true ∧
    (match exec (.addT1 2 1 0) stMalformed with
      | .refused r => some r
      | _ => none) = some .malformedIT ∧
    decidedStop (.addT1 2 1 0) stInside = none ∧ WellFormed (.addT1 2 1 0) := by decide
theorem test_witness_step_completes : frontEnd stInside = .ok (.addT1 2 1 0) := rfl
theorem sound_stA : stA.sound := by
  refine ⟨⟨?_, ?_⟩, ?_, ?_, ?_⟩ <;> decide
/-- A step of the machine, and one of 93_implementation_defined.md where the machine stops. -/
theorem test_witness_StepKeepsSound :
    (∃ t, stA.sound ∧ step stA = .next t) ∧ (∃ t, stA.sound ∧ permittedStep stA = .next t) ∧
    ∃ t, hypState.sound ∧ permittedStep hypState = .next t := by
  obtain ⟨t, h⟩ := exists_next (r := step stA) (by decide)
  obtain ⟨t', h'⟩ := exists_next (r := permittedStep hypState) (by decide)
  have sound : hypState.sound := by refine ⟨⟨?_, ?_⟩, ?_, ?_, ?_⟩ <;> decide
  exact ⟨⟨t, sound_stA, h⟩, ⟨t, sound_stA, permittedStep_of_step h⟩, t', sound, h'⟩
/-- Inside an IT block, at a word that is not the branch with a free IT state. -/
theorem test_witness_StepKeepsITLegal :
    ∃ t, stInside.itLegal ∧ step stInside = .next t ∧ permittedStep stInside = .next t ∧
      (∀ dn rm rdn, frontEnd stInside = .ok (.addT2 dn rm rdn) →
        regDnRdn dn rdn = 15#4 → rm ≠ 15#4 → inITBlock stInside.pstate.it = true →
          lastInITBlock stInside.pstate.it = true) := by
  obtain ⟨t, h⟩ := exists_next (r := step stInside) (by decide)
  have hf : frontEnd stInside = .ok (.addT1 2 1 0) := rfl
  exact ⟨t, .inr (by decide), h, permittedStep_of_step h, fun _ _ _ h' => by rw [hf] at h'; cases h'⟩
theorem test_witness_StepKeepsPcAligned :
    ∃ t, stT.basesAligned ∧ step stT = .next t ∧ permittedStep stT = .next t := by
  obtain ⟨t, h⟩ := exists_next (r := step stT) (by decide)
  exact ⟨t, ⟨by decide, by decide⟩, h, permittedStep_of_step h⟩
theorem test_witness_ModeChangesOnlyThroughExceptions :
    ∃ t, exec (.addsShiftA1 14 14 15 0 0 0) svcState = .next t ∧ t.pstate.mode ≠ svcState.pstate.mode := by
  obtain ⟨t, h⟩ := exists_next (r := exec (.addsShiftA1 14 14 15 0 0 0) svcState) (by decide)
  have hm : (match exec (.addsShiftA1 14 14 15 0 0 0) svcState with
      | .next t => t.pstate.mode == .user
      | _ => false) = true := by decide
  rw [h] at hm
  exact ⟨t, h, by rw [eq_of_beq hm]; decide⟩
/-- A step that stays in User mode, and one that enters Undefined mode. -/
theorem test_witness_UserModeEntersOnlyVectors :
    (∃ t, (inMode .user stA).pstate.mode = .user ∧ (inMode .user stA).pstate.il = false ∧
      step (inMode .user stA) = .next t ∧ permittedStep (inMode .user stA) = .next t) ∧
    (∃ t, pendingState.pstate.mode = .user ∧ step pendingState = .next t) := by
  obtain ⟨t, h⟩ := exists_next (r := step (inMode .user stA)) (by decide)
  obtain ⟨t', h'⟩ := exists_next (r := step pendingState) (by decide)
  exact ⟨⟨t, by decide, by decide, h, permittedStep_of_step h⟩, t', by decide, h'⟩
theorem test_witness_UserModeKeepsMasks :
    ∃ t, (inMode .user stA).pstate.mode = .user ∧ step (inMode .user stA) = .next t ∧ t.pstate.mode = .user := by
  obtain ⟨t, h⟩ := exists_next (r := step (inMode .user stA)) (by decide)
  have hm : (match step (inMode .user stA) with
      | .next t => t.pstate.mode == .user
      | _ => false) = true := by decide
  rw [h] at hm
  exact ⟨t, by decide, h, eq_of_beq hm⟩
/-- A PSTATE inside an IT block in T32 state and one in A32 state. -/
theorem test_witness_SavedPstateRestores :
    (stInside.pstate.t = true ∧ inITBlock stInside.pstate.it = true) ∧ stA.pstate.it = 0 ∧
    Pstate.reset.ssbs = stA.pstate.ssbs ∧ Pstate.reset.pan = stA.pstate.pan ∧ Pstate.reset.dit = stA.pstate.dit := by
  decide
theorem test_witness_UndefinedThenReturnRestores :
    (inMode .user stInside).pstate.mode = .user ∧ (inMode .user stInside).hcrTGE = false ∧
    (inMode .user stInside).itLegal ∧ (inMode .user stInside).pcAligned = true :=
  ⟨by decide, by decide, .inr (by decide), by decide⟩
/-- A line of each instruction set that assembles, the last with R97 (f)'s exchange; A32 lines that must assemble, with
the amounts at the ends of R87's ranges. -/
theorem test_witness_AssembledLineIsItsInstruction :
    assembleA32 ⟨false, some 1, none, none, 0, 1, none⟩ = .ok (.addShiftA1 1 0 0 0 0 1) ∧
    assembleT32 0 ⟨false, none, some .narrow, none, 15, 1, none⟩ = .ok (.addT2 1 1 7) ∧
    assembleT32 0x08 ⟨false, some 0, none, some 9, 1, 9, none⟩ = .ok (.addT2 1 1 1) ∧
    exchanged 0x08 ⟨false, some 0, none, some 9, 1, 9, none⟩ (.addT2 1 1 1) :=
  ⟨rfl, rfl, rfl, by decide, rfl, by decide, rfl, rfl, 1, 1, rfl, rfl⟩
/-- The T32 lines that must assemble: T3, T1 outside and inside an IT block, T2, and T2 with its sources exchanged. -/
theorem test_witness_t32_lines :
    (let l : AsmLine := ⟨true, none, some .wide, some 12, 14, 11, some (.asr 32)⟩
     conditionAgrees 0 l ∧ l.rn ≠ 13#4 ∧ l.width ≠ some .narrow ∧ l.dest ≠ 15#4 ∧ l.rn ≠ 15#4 ∧ l.rm ≠ 15#4 ∧
       amountInRange l.shift) ∧
    (let l : AsmLine := ⟨true, none, none, some 0, 1, 7, none⟩
     conditionAgrees 0 l ∧ l.rn ≠ 13#4 ∧ narrowForm l ∧ lowRegisters l ∧ inITBlock 0 = false ∧ l.cond = none) ∧
    (let l : AsmLine := ⟨false, some 0, none, some 0, 1, 7, none⟩
     conditionAgrees 0x08 l ∧ l.rn ≠ 13#4 ∧ narrowForm l ∧ lowRegisters l ∧ inITBlock 0x08 = true ∧
       l.rd.isSome = true) ∧
    (let l : AsmLine := ⟨false, some 0, none, none, 15, 1, none⟩
     conditionAgrees 0x08 l ∧ l.rn ≠ 13#4 ∧ narrowForm l ∧ ¬ lowRegisters l ∧ l.dest = l.rn ∧
       t2Allows 0x08 l.rn l.rm) ∧
    (let l : AsmLine := ⟨false, some 0, none, some 9, 1, 9, none⟩
     conditionAgrees 0x08 l ∧ l.rn ≠ 13#4 ∧ narrowForm l ∧ ¬ lowRegisters l ∧ l.dest ≠ l.rn ∧ l.dest = l.rm ∧
       t2Allows 0x08 l.rm l.rn) := by
  refine ⟨⟨rfl, by decide, by decide, by decide, by decide, by decide, show 1 ≤ 32 ∧ 32 ≤ 32 by decide⟩, ?_⟩
  unfold conditionAgrees narrowForm lowRegisters t2Allows
  decide
theorem test_witness_a32_lines :
    (∀ sh ∈ [AsmShift.lsl 1, .lsl 31, .lsr 1, .lsr 32, .asr 32, .ror 31, .rrx], amountInRange (some sh)) ∧
    ((12 : RegNum) ≠ 13#4 ∧ (none : Option AsmWidth) ≠ some .narrow ∧ (some 14 : Option (BitVec 4)) ≠ some 15#4) := by
  refine ⟨?_, by decide⟩
  simp [amountInRange]

end Sys2Proof.Tests
end

section
/-! PROOFS. The scope's stops of a T32 instruction: the decode's UNPREDICTABLE cases, and the malformed IT state
(00_scope.md R9, 41_helper_functions.md R142; logs 19, 20). -/

namespace Sys2Proof.Machine
open Sys2Proof Sys2Proof.Claims

/-! ## The stops decided for an UNPREDICTABLE word -/

/-- T2's Decode takes the destination as its first source, so R80's cases speak of two registers. -/
theorem decidedT2_formT2 (dn : BitVec 1) (rm : RegNum) (rdn : BitVec 3) (s : State) :
    decidedT2 (formT2 dn rm rdn) s =
      if regDnRdn dn rdn = 15#4 ∧ rm = 15#4 then some (.inr (.unpredictable .t2PcPc))
      else if regDnRdn dn rdn = 15#4 ∧ inITBlock s.pstate.it = true ∧ lastInITBlock s.pstate.it = false then
        some (.inr (.unpredictable .t2BranchInIT))
      else none := rfl

/-- R80 has no case for a T2 word that is not UNPREDICTABLE. -/
theorem decidedT2_of_predictable {dn : BitVec 1} {rm : RegNum} {rdn : BitVec 3} {s : State}
    (h : isUnpredictable s.pstate.it (.addT2 dn rm rdn) = false) : decidedT2 (formT2 dn rm rdn) s = none := by
  rw [decidedT2_formT2]
  split_ifs <;> simp_all [isUnpredictable]

theorem decidedT2_of_unpredictable {dn : BitVec 1} {rm : RegNum} {rdn : BitVec 3} {s : State}
    (h : isUnpredictable s.pstate.it (.addT2 dn rm rdn) = true) :
    ∃ case, decidedT2 (formT2 dn rm rdn) s = some (.inr (.unpredictable case)) := by
  rw [decidedT2_formT2]
  split_ifs
  · exact ⟨_, rfl⟩
  · exact ⟨_, rfl⟩
  · simp_all [isUnpredictable]

/-- R82 and R85 have no case for a T3 word that is not UNPREDICTABLE. -/
theorem decidedT3_of_predictable {sbz : BitVec 1} {f : AddForm} (h : unpredictableT3 sbz f.n f.d f.m = false) :
    decidedT3 sbz f = none := by
  simp_all [unpredictableT3, decidedT3]

/-- The PC as ADDS's destination is CMN, no word of T3 (R84); every other UNPREDICTABLE word is a case of R82 or R85. -/
theorem decidedT3_of_unpredictable {sbz : BitVec 1} {f : AddForm} (hcmn : f.d = 15#4 → f.setflags = false)
    (h : unpredictableT3 sbz f.n f.d f.m = true) :
    ∃ case, decidedT3 sbz f = some (.inr (.unpredictable case)) := by
  unfold decidedT3
  split_ifs
  · exact ⟨_, rfl⟩
  · exact ⟨_, rfl⟩
  · exact ⟨_, rfl⟩
  · exact ⟨_, rfl⟩
  · simp_all [unpredictableT3]

/-- A well-formed UNPREDICTABLE word stops as such, whatever the IT state: the decode comes first (R9). -/
theorem decidedStop_of_unpredictable {i : Instr} {s : State} (hwf : WellFormed i)
    (h : isUnpredictable s.pstate.it i = true) :
    ∃ case, decidedStop i s = some (.inr (.unpredictable case)) := by
  have own : ∀ {o : Option Stop}, (∃ case, o = some (.inr (.unpredictable case))) →
      ∃ case, decidedT32 s o = some (.inr (.unpredictable case)) := by
    rintro _ ⟨case, rfl⟩
    exact ⟨case, rfl⟩
  cases i with
  | addRrxA1 | addShiftA1 | addsRrxA1 | addsShiftA1 | addsT1 | addT1 => cases h
  | addT2 => exact own (decidedT2_of_unpredictable h)
  | addRrxT3 | addShiftT3 => exact own (decidedT3_of_unpredictable (fun _ => rfl) h)
  | addsRrxT3 | addsShiftT3 =>
    refine own (decidedT3_of_unpredictable (fun hd => ?_) h)
    simp_all [WellFormed, Instr.isWellFormed, wellFormedT3, formT3]

/-! ## The malformed IT state -/

theorem decidedT32_of_malformed {s : State} (h0 : s.pstate.it ≠ 0) (h1 : inITBlock s.pstate.it = false)
    (own : Option Stop) : decidedT32 s own = some (own.getD (.inr .malformedIT)) := by
  unfold decidedT32
  rw [if_pos ⟨h0, h1⟩]
  cases own <;> rfl

/-- Any other T32 instruction stops at its condition check. -/
theorem decidedStop_of_malformed {i : Instr} {s : State} (hm : malformedIT i s.pstate)
    (h : isUnpredictable s.pstate.it i = false) : decidedStop i s = some (.inr .malformedIT) := by
  obtain ⟨ht, h0, h1⟩ := hm
  have own : ∀ {o : Option Stop}, o = none → decidedT32 s o = some (.inr .malformedIT) := by
    rintro _ rfl
    exact decidedT32_of_malformed h0 h1 none
  cases i with
  | addRrxA1 | addShiftA1 | addsRrxA1 | addsShiftA1 => cases ht
  | addsT1 | addT1 => exact own rfl
  | addT2 => exact own (decidedT2_of_predictable h)
  | addRrxT3 | addShiftT3 | addsRrxT3 | addsShiftT3 => exact own (decidedT3_of_predictable h)

theorem conditionalT32_of_malformed {s : State} (h : currentCondT32 s.pstate = none) (len : Word)
    (body : State → Result) : conditionalT32 len body s = .refused .malformedIT := by
  unfold conditionalT32
  rw [h]
  rfl

theorem unpredictable_of_malformed {s : State} (h : currentCondT32 s.pstate = none) (case : Config.UnpredCase)
    (len : Word) (execute variant : State → Result) :
    unpredictable case len execute variant s = .refused (.unpredictable case) := if_pos h

theorem execAddT2_of_malformed {s : State} (h : currentCondT32 s.pstate = none) (dn : BitVec 1) (rm : RegNum)
    (rdn : BitVec 3) :
    execAddT2 dn rm rdn s = stopped ((decidedT2 (formT2 dn rm rdn) s).getD (.inr .malformedIT)) := by
  simp only [execAddT2, unpredictable_of_malformed h, conditionalT32_of_malformed h, decidedT2_formT2,
    Bool.not_eq_true]
  split_ifs <;> rfl

theorem runT3_of_malformed {s : State} (h : currentCondT32 s.pstate = none) (sbz : BitVec 1) (f : AddForm) :
    runT3 sbz f s = stopped ((decidedT3 sbz f).getD (.inr .malformedIT)) := by
  simp only [runT3, sbzT3, checkedT3, unpredictable_of_malformed h, conditionalT32_of_malformed h, decidedT3,
    Bool.not_eq_true]
  split_ifs <;> rfl

/-- With nothing listed for a malformed IT state (U11), an instruction's effect there is the stop the step decides. -/
theorem exec_eq_perform_of_malformed {i : Instr} {s : State} (hm : malformedIT i s.pstate) :
    exec i s = perform i s := by
  obtain ⟨ht, h0, h1⟩ := hm
  have hc := currentCondT32_of_malformed h0 h1
  have of_own : ∀ own : Option Stop, decidedStop i s = decidedT32 s own →
      exec i s = stopped (own.getD (.inr .malformedIT)) → exec i s = perform i s := fun own hd he =>
    he.trans (perform_of_decided (hd.trans (decidedT32_of_malformed h0 h1 own))).symm
  cases i with
  | addRrxA1 | addShiftA1 | addsRrxA1 | addsShiftA1 => cases ht
  | addsT1 | addT1 => exact of_own none rfl (conditionalT32_of_malformed hc _ _)
  | addT2 => exact of_own _ rfl (execAddT2_of_malformed hc _ _ _)
  | addRrxT3 | addShiftT3 | addsRrxT3 | addsShiftT3 => exact of_own _ rfl (runT3_of_malformed hc _ _)

/-- Settles O38: in a malformed IT state the effect is the decided stop, the decode's own case before the IT state's. -/
theorem malformedITRefused : Obligations.MalformedITRefused := by
  intro i s ht h0 h1
  have hm : malformedIT i s.pstate := ⟨ht, h0, h1⟩
  rw [exec_eq_perform_of_malformed hm]
  refine ⟨fun hu => perform_of_decided (decidedStop_of_malformed hm hu), fun hwf hu => ?_⟩
  obtain ⟨case, hstop⟩ := decidedStop_of_unpredictable hwf hu
  exact ⟨case, perform_of_decided hstop⟩

end Sys2Proof.Machine
end

section
/-! PROOFS. What an instruction leaves unchanged: memory, the controls, the flags, the rest of PSTATE and the registers
(10_state.md R23, R29, R36, R37; 20_memory.md R50; logs 8, 12, 14, 31). -/

namespace Sys2Proof.Machine
open Sys2Proof Sys2Proof.Claims

/-! ## Rules for the operations -/

theorem takeException_mem (ec : BitVec 6) (s : State) : (takeException ec s).mem = s.mem := by
  rcases takeException_cases ec s with ⟨-, h⟩ | ⟨-, -, h⟩ | ⟨-, -, h⟩ <;> simp [h]

theorem takeException_controlsUnchanged (ec : BitVec 6) (s : State) : controlsUnchanged s (takeException ec s) := by
  rcases takeException_cases ec s with ⟨-, h⟩ | ⟨-, -, h⟩ | ⟨-, -, h⟩ <;> simp [h, controlsUnchanged]

theorem takeException_flagsUnchanged (ec : BitVec 6) (s : State) :
    flagsUnchanged s.pstate (takeException ec s).pstate := by
  rcases takeException_cases ec s with ⟨-, h⟩ | ⟨-, -, h⟩ | ⟨-, -, h⟩ <;> simp [h, flagsUnchanged]

theorem aluWritePC_pstate (a : Word) (s : State) :
    ∃ t, (aluWritePC a s).pstate = { s.pstate with t := t } ∧ (s.pstate.t = true → t = true) := by
  obtain ⟨pc, t, h, ht⟩ := aluWritePC_eq a s
  exact ⟨t, congrArg State.pstate h, ht⟩

theorem branchTo_pstate (a : Word) (s : State) :
    ∃ t, (branchTo a s).pstate = { s.pstate.itAdvanced with t := t } ∧ (s.pstate.t = true → t = true) := by
  obtain ⟨t, h, ht⟩ := aluWritePC_pstate a { s with pstate := s.pstate.itAdvanced }
  exact ⟨t, h, fun hs => ht ((Pstate.itAdvanced_t _).trans hs)⟩

theorem writeResult_pstate (f : AddForm) (r : Word) (k : Nzcv) (s : State) :
    (writeResult f r k s).pstate = if f.setflags then s.pstate.itAdvanced.withNzcv k else s.pstate.itAdvanced := by
  rw [writeResult_eq]

/-- What a place among the registers holds after a write to one. -/
theorem getElem_set_fin (g : Vector Word 36) (j k : Fin 36) (v : Word) :
    (g.set j v)[k] = if j = k then v else g[k] := by
  simp only [Fin.getElem_fin, Vector.getElem_set, Fin.ext_iff]

theorem writeResult_getElem_of_ne {f : AddForm} {s : State} {k : Fin 36} (h : k ≠ gprSlot s.pstate.mode f.d)
    (r : Word) (q : Nzcv) : (writeResult f r q s).gpr[k] = s.gpr[k] := by
  simp only [writeResult_gpr, getElem_set_fin, if_neg (Ne.symm h)]

/-- An exception entry writes no general register but LR_und (logs 12, 31). -/
theorem takeException_getElem_of_ne {k : Fin 36} (h : k ≠ gprSlot .undef 14) (ec : BitVec 6) (s : State) :
    (takeException ec s).gpr[k] = s.gpr[k] := by
  rcases takeException_cases ec s with ⟨-, he⟩ | ⟨-, -, he⟩ | ⟨-, -, he⟩
  · rw [he, enterHyp_gpr]
  · rw [he, enterHyp_gpr]
  · simp only [he, enterUndef_gpr, getElem_set_fin, if_neg (Ne.symm h)]

/-! ## Every instruction -/

theorem Effect.mem_eq {i : Instr} {s t : State} (h : Effect i s t) : t.mem = s.mem := by
  cases h with
  | advances | writes | branches | branchesFreeIT | advancesFreeIT | returns => simp
  | undefined => exact takeException_mem 0 _

theorem Effect.controlsUnchanged {i : Instr} {s t : State} (h : Effect i s t) : controlsUnchanged s t := by
  cases h with
  | advances | writes | branches | branchesFreeIT | advancesFreeIT | returns => simp [Claims.controlsUnchanged]
  | undefined => exact takeException_controlsUnchanged 0 _

/-- Settles O42: none of an instruction's effects touches memory or a control. -/
theorem memoryAndControlsNeverWritten : Obligations.MemoryAndControlsNeverWritten := by
  intro i s t h
  have he := exec_effect h
  refine ⟨fun a => ?_, he.mem_eq, he.controlsUnchanged⟩
  rw [State.readByte, State.readByte, he.mem_eq]

theorem Effect.flagsUnchanged {i : Instr} {s t : State} (hi : setsFlags i = false) (h : Effect i s t) :
    flagsUnchanged s.pstate t.pstate := by
  unfold Claims.flagsUnchanged
  cases h with
  | advances | advancesFreeIT => simp
  | writes fresh f r k hd hpc hs => simp [writeResult_pstate, hs, hi]
  | branches fresh a =>
    obtain ⟨t, h, -⟩ := branchTo_pstate a { s with fresh := fresh }
    simp [h]
  | branchesFreeIT fresh fresh' a =>
    obtain ⟨t, h, -⟩ := aluWritePC_pstate a { s with fresh := fresh }
    simp [h]
  | returns fresh a spsr hd hs => rw [hi] at hs; cases hs
  | undefined => exact takeException_flagsUnchanged 0 _

/-- Settles O43: only an ADDS or a return writes a flag, and a return is an ADDS. -/
theorem addNeverWritesFlags : Obligations.AddNeverWritesFlags := fun _ _ _ hi h => (exec_effect h).flagsUnchanged hi

/-! ## An ordinary instruction -/

/-- ADDS to the PC is the exception return in A1 and UNPREDICTABLE in T3; T1 cannot name the PC. -/
theorem not_ordinary_of_addsPc {i : Instr} {s : State} (hd : destination i = 15#4) (hs : setsFlags i = true) :
    ¬ ordinary i s := by
  rintro ⟨hr, hu⟩
  have low : ∀ r : BitVec 3, lowReg r ≠ 15#4 := by decide
  cases i with
  | addRrxA1 | addShiftA1 | addT1 | addT2 | addRrxT3 | addShiftT3 => cases hs
  | addsRrxA1 | addsShiftA1 => simp_all [isExceptionReturn, destination]
  | addsT1 rm rn rd => exact low rd hd
  | addsRrxT3 | addsShiftT3 => simp_all [isUnpredictable, unpredictableT3, destination]

/-- The effects left to an instruction that is neither an exception return nor UNPREDICTABLE. -/
inductive OrdinaryEffect (i : Instr) (s : State) : State → Prop where
  /-- it is skipped -/
  | advances (fresh : Nat) : OrdinaryEffect i s (advance (lengthInBytes i) { s with fresh := fresh })
  /-- it writes its destination register -/
  | writes (fresh : Nat) (f : AddForm) (result : Word) (flags : Nzcv) (hd : f.d = destination i) (hpc : f.d ≠ 15#4) :
      OrdinaryEffect i s (writeResult f result flags { s with fresh := fresh })
  /-- it branches -/
  | branches (fresh : Nat) (a : Word) : OrdinaryEffect i s (branchTo a { s with fresh := fresh })

theorem Effect.ordinaryEffect {i : Instr} {s t : State} (ho : ordinary i s) (h : Effect i s t) :
    OrdinaryEffect i s t := by
  cases h with
  | advances fresh => exact .advances fresh
  | writes fresh f r k hd hpc => exact .writes fresh f r k hd hpc
  | branches fresh a => exact .branches fresh a
  | branchesFreeIT fresh fresh' a hi hd hit hl hu | advancesFreeIT fresh fresh' hi hd hit hl hu =>
    rw [ho.2] at hu; cases hu
  | returns fresh a spsr hd hs => exact absurd ho (not_ordinary_of_addsPc hd hs)
  | undefined fresh hu =>
    rcases hu with hr | hu | ⟨hd, hs⟩
    · rw [ho.1] at hr; cases hr
    · rw [ho.2] at hu; cases hu
    · exact absurd ho (not_ordinary_of_addsPc hd hs)

theorem OrdinaryEffect.restOfPstateUnchanged {i : Instr} {s t : State} (h : OrdinaryEffect i s t) :
    restOfPstateUnchanged s.pstate t.pstate ∧ (s.pstate.t = true → t.pstate.t = true) := by
  unfold Claims.restOfPstateUnchanged
  cases h with
  | advances => simp
  | writes fresh f => cases hf : f.setflags <;> simp [writeResult_pstate, hf]
  | branches fresh a =>
    obtain ⟨t, h, ht⟩ := branchTo_pstate a { s with fresh := fresh }
    simpa [h] using ht

theorem OrdinaryEffect.exceptionRegistersUnchanged {i : Instr} {s t : State} (h : OrdinaryEffect i s t) :
    exceptionRegistersUnchanged s t := by
  cases h <;> simp [Claims.exceptionRegistersUnchanged]

/-- It writes no register but its destination, and none if that is the PC. -/
theorem OrdinaryEffect.gpr_getElem {i : Instr} {s t : State} (h : OrdinaryEffect i s t) {k : Fin 36}
    (hk : destination i = 15#4 ∨ k ≠ gprSlot s.pstate.mode (destination i)) : t.gpr[k] = s.gpr[k] := by
  cases h with
  | advances => rfl
  | writes fresh f r q hd hpc =>
    rw [← hd] at hk
    exact writeResult_getElem_of_ne (s := { s with fresh := fresh }) (hk.resolve_left hpc) r q
  | branches => simp only [branchTo_gpr]

/-- Settles O41: a skip, a write of the destination or a branch keeps all the rest. -/
theorem ordinaryFrame : Obligations.OrdinaryFrame := by
  intro i s t ho h
  have he := exec_effect h
  have hoe := he.ordinaryEffect ho
  obtain ⟨hrest, ht⟩ := hoe.restOfPstateUnchanged
  exact ⟨fun k hk => hoe.gpr_getElem (.inr hk),
    fun hd => Vector.ext fun k hk => hoe.gpr_getElem (k := ⟨k, hk⟩) (.inl hd),
    he.flagsUnchanged, hrest, fun _ => ht, hoe.exceptionRegistersUnchanged, he.controlsUnchanged,
    (memoryAndControlsNeverWritten i s t h).1⟩

/-! ## The registers of every mode -/

theorem Effect.gpr_getElem {i : Instr} {s t : State} (h : Effect i s t) {k : Fin 36}
    (hk : destination i = 15#4 ∨ k ≠ gprSlot s.pstate.mode (destination i)) (hlr : k ≠ gprSlot .undef 14) :
    t.gpr[k] = s.gpr[k] := by
  cases h with
  | advances | branches | branchesFreeIT | advancesFreeIT | returns => simp
  | writes fresh f r q hd hpc => exact (OrdinaryEffect.writes (i := i) fresh f r q hd hpc).gpr_getElem hk
  | undefined => exact takeException_getElem_of_ne hlr 0 _

theorem State.readReg_of_ne_pc (s : State) {r : RegNum} (hr : r ≠ 15#4) :
    s.readReg r = s.gpr[gprSlot s.pstate.mode r] := if_neg hr

theorem readReg_seenFrom (s : State) (m : Mode) {r : RegNum} (hr : r ≠ 15#4) :
    (seenFrom m s).readReg r = s.gpr[gprSlot m r] := if_neg hr

/-- Where two modes' registers stand apart, a change of mode uncovers a copy that the instruction did not write. -/
theorem Effect.readReg {i : Instr} {s t : State} (h : Effect i s t) {r : RegNum} (hr : r ≠ 15#4)
    (hd : r ≠ destination i ∨ ¬ oneRegister r s.pstate.mode t.pstate.mode)
    (hlr : r ≠ 14#4 ∨ t.pstate.mode ≠ .undef) : t.readReg r = (seenFrom t.pstate.mode s).readReg r := by
  rw [t.readReg_of_ne_pc hr, readReg_seenFrom s _ hr]
  refine h.gpr_getElem ?_ fun he => ?_
  · by_cases hpc : destination i = 15#4
    · exact .inl hpc
    · refine .inr fun he => ?_
      obtain ⟨hrd, hone⟩ := (gprSlot_eq_iff hpc hr).mp he.symm
      exact hd.elim (· hrd.symm) (· (hrd ▸ hone))
  · by_cases hm : t.pstate.mode = .undef
    · rw [hm] at he
      exact hlr.elim (· (gprSlot_injective _ hr (by decide) he)) (· hm)
    · exact gprSlot_undef_lr hm hr he

theorem readReg_seenFrom_of_oneRegister {s : State} {m : Mode} {r : RegNum} (hr : r ≠ 15#4)
    (hone : oneRegister r s.pstate.mode m) : (seenFrom m s).readReg r = s.readReg r := by
  rw [readReg_seenFrom s m hr, s.readReg_of_ne_pc hr]
  exact congrArg (fun k : Fin 36 => s.gpr[k]) ((gprSlot_eq_iff hr hr).mpr ⟨rfl, hone⟩).symm

theorem readReg_seenFrom_writeReg (s : State) (m : Mode) {r r' : RegNum} (v : Word) (hr : r ≠ 15#4) (hr' : r' ≠ 15#4) :
    (seenFrom m (s.writeReg r v)).readReg r' =
      if r' = r ∧ oneRegister r s.pstate.mode m then v else (seenFrom m s).readReg r' := by
  simp only [readReg_seenFrom _ m hr', State.writeReg_gpr, getElem_set_fin, gprSlot_eq_iff hr hr', eq_comm (a := r)]

/-- Settles O44: the copies an instruction writes, and which modes share a copy. -/
theorem otherModesRegistersKept : Obligations.OtherModesRegistersKept :=
  ⟨fun _ _ _ h _ hk hlr => (exec_effect h).gpr_getElem hk hlr,
    fun _ _ _ h _ hr hd hlr => (exec_effect h).readReg hr hd hlr,
    fun _ _ _ hr hone => readReg_seenFrom_of_oneRegister hr hone,
    fun s m _ _ v hr hr' => readReg_seenFrom_writeReg s m v hr hr'⟩

end Sys2Proof.Machine
end

section
/-! PROOFS. What the decoder hands to a step: a well-formed instruction of the instruction set that PSTATE.T selects
(30_encoding.md R70 to R84; 41_helper_functions.md R163). -/

namespace Sys2Proof.Machine
open Sys2Proof

theorem decodeA1_ok {w : Word} {i : Instr} (h : decodeA1 w = .ok i) : i.isT32 = false ∧ WellFormed i := by
  unfold decodeA1 at h
  dsimp only at h
  split at h
  · cases h
  · split at h
    · cases h
    · split at h <;> cases h <;> simp_all [Instr.isT32, WellFormed, Instr.isWellFormed]

theorem decodeT16_ok {inIT : Bool} {hw : Half} {i : Instr} (h : decodeT16 inIT hw = .ok i) :
    i.isT32 = true ∧ WellFormed i := by
  unfold decodeT16 at h
  split at h
  · cases h
    unfold decodeT1
    split <;> exact ⟨rfl, rfl⟩
  · split at h
    · unfold decodeT2 at h
      dsimp only at h
      split at h
      · cases h
      · cases h; simp_all [Instr.isT32, WellFormed, Instr.isWellFormed]
    · cases h

theorem decodeT3_ok {hw1 hw2 : Half} {i : Instr} (h : decodeT3 hw1 hw2 = .ok i) : i.isT32 = true ∧ WellFormed i := by
  unfold decodeT3 at h
  dsimp only at h
  split at h
  · cases h
  · split at h
    · cases h
    · split at h
      · cases h
      · split at h <;> cases h <;> simp_all [Instr.isT32, WellFormed, Instr.isWellFormed]

theorem decodeBits_wellFormed {inIT : Bool} {b : InstrBits} {i : Instr} (h : decodeBits inIT b = .ok i) :
    WellFormed i := by
  cases b with
  | a32 => exact (decodeA1_ok h).2
  | t16 => exact (decodeT16_ok h).2
  | t32 => exact (decodeT3_ok h).2

/-- The bits a fetch answers decode in the instruction set of PSTATE.T. -/
theorem isT32_of_fetch {s : State} {b : InstrBits} {inIT : Bool} {i : Instr} (hf : fetch s = .ok b)
    (hd : decodeBits inIT b = .ok i) : i.isT32 = s.pstate.t := by
  unfold fetch at hf
  split at hf
  · next ht =>
    rw [ht]
    split at hf
    · cases hf
    · split at hf
      · split at hf
        · cases hf
        · cases hf; exact (decodeT3_ok hd).1
      · cases hf; exact (decodeT16_ok hd).1
  · next ht =>
    rw [Bool.eq_false_iff.mpr ht]
    split at hf
    · cases hf
    · cases hf; exact (decodeA1_ok hd).1

theorem frontEnd_isT32 {s : State} {i : Instr} (h : frontEnd s = .ok i) : i.isT32 = s.pstate.t := by
  obtain ⟨-, -, b, hf, hd⟩ := frontEnd_ok h
  exact isT32_of_fetch hf hd

theorem frontEnd_wellFormed {s : State} {i : Instr} (h : frontEnd s = .ok i) : WellFormed i := by
  obtain ⟨-, -, b, -, hd⟩ := frontEnd_ok h
  exact decodeBits_wellFormed hd

end Sys2Proof.Machine
end

section
/-! PROOFS. Every step leads to an aligned pc and keeps the invariant (10_state.md R27; 41_helper_functions.md R156 to
R158; log 17). -/

namespace Sys2Proof.Machine
open Sys2Proof Sys2Proof.Claims

/-! ## Aligned addresses -/

/-- An address is aligned for the instruction set that `t` selects (10_state.md R27). -/
def alignedFor (t : Bool) (a : Word) : Prop := if t then a.extractLsb' 0 1 = 0 else a.extractLsb' 0 2 = 0

theorem pcAligned_iff {s : State} : s.pcAligned = true ↔ alignedFor s.pstate.t s.pc := by
  unfold State.pcAligned alignedFor
  split <;> exact beq_iff_eq

/-- The low bits of a sum are the sum of the low bits. -/
theorem extractLsb'_zero_add {n : Nat} (hn : n ≤ 32) (a b : Word) :
    (a + b).extractLsb' 0 n = a.extractLsb' 0 n + b.extractLsb' 0 n := by
  simp only [← BitVec.setWidth_eq_extractLsb' hn, BitVec.setWidth_add a b hn]

theorem alignedFor.add {t : Bool} {a b : Word} (ha : alignedFor t a) (hb : alignedFor t b) : alignedFor t (a + b) := by
  cases t
  · exact (extractLsb'_zero_add (by decide) a b).trans (congrArg₂ (· + ·) ha hb)
  · exact (extractLsb'_zero_add (by decide) a b).trans (congrArg₂ (· + ·) ha hb)

theorem alignedFor.even {t : Bool} {a : Word} (h : alignedFor t a) : a.getLsbD 0 = false := by
  cases t
  · simpa using congrArg (·.getLsbD 0) (show a.extractLsb' 0 2 = 0 from h)
  · simpa using congrArg (·.getLsbD 0) (show a.extractLsb' 0 1 = 0 from h)

theorem alignedFor_of_word {a : Word} (h : a.extractLsb' 0 2 = 0) (t : Bool) : alignedFor t a := by
  cases t
  · exact h
  · simpa [alignedFor] using congrArg (·.extractLsb' 0 1) h

theorem alignedFor_alignHalf (a : Word) : alignedFor true (alignHalf a) :=
  BitVec.extractLsb'_and.trans BitVec.and_zero

theorem alignedFor_alignWord (a : Word) : alignedFor false (alignWord a) :=
  BitVec.extractLsb'_and.trans BitVec.and_zero

theorem alignedFor_lengthInBytes (i : Instr) : alignedFor i.isT32 (lengthInBytes i) := by
  cases i with
  | addsT1 | addT1 | addT2 => exact show (2 : Word).extractLsb' 0 1 = 0 from rfl
  | addRrxA1 | addShiftA1 | addsRrxA1 | addsShiftA1 | addRrxT3 | addShiftT3 | addsRrxT3 | addsShiftT3 =>
    exact alignedFor_of_word (a := 4) rfl _

theorem extractLsb'_two_of_even {a : Word} (h : a.getLsbD 0 = false) :
    a.extractLsb' 0 2 = if a.getLsbD 1 then 2 else 0 := by
  cases h1 : a.getLsbD 1
  · ext i hi
    match i with
    | 0 => simpa using h
    | 1 => simpa using h1
  · ext i hi
    match i with
    | 0 => simpa using h
    | 1 => simpa using h1

/-! ## Where each operation leaves the pc -/

theorem advance_pcAligned {i : Instr} {s : State} {len : Word} (hl : len = lengthInBytes i)
    (hi : i.isT32 = s.pstate.t) (hs : s.pcAligned = true) : (advance len s).pcAligned = true := by
  rw [pcAligned_iff] at hs ⊢
  rw [advance_pc, advance_pstate, Pstate.itAdvanced_t, hl]
  exact hs.add (hi ▸ alignedFor_lengthInBytes i)

theorem writeResult_pcAligned {i : Instr} {f : AddForm} {s : State} (hl : f.len = lengthInBytes i)
    (hi : i.isT32 = s.pstate.t) (hs : s.pcAligned = true) (r : Word) (k : Nzcv) :
    (writeResult f r k s).pcAligned = true := by
  unfold writeResult
  refine advance_pcAligned hl ?_ ?_
  · split <;> exact hi
  · split <;> exact hs

/-- A vector is an aligned address, its base and its offset being words. -/
theorem takeException_pcAligned {s : State} (hb : s.basesAligned) (ec : BitVec 6) :
    (takeException ec s).pcAligned = true := by
  obtain ⟨hv, hh⟩ := hb
  have vector {base off : Word} (hbase : base.extractLsb' 0 2 = 0) (hoff : off.extractLsb' 0 2 = 0) (t : Bool) :
      alignedFor t (base + off) := (alignedFor_of_word hbase t).add (alignedFor_of_word hoff t)
  have hbase : s.exceptionBase.extractLsb' 0 2 = 0 := by
    unfold State.exceptionBase
    split
    · rfl
    · exact hv
  rw [pcAligned_iff]
  rcases takeException_cases ec s with ⟨-, h⟩ | ⟨-, -, h⟩ | ⟨-, -, h⟩ <;> rw [h]
  · exact vector hh rfl _
  · exact vector hh rfl _
  · exact vector hbase rfl _

theorem exceptionReturn_pcAligned (a spsr : Word) (s : State) : (exceptionReturn a spsr s).pcAligned = true := by
  rw [pcAligned_iff, exceptionReturn_pstate, exceptionReturn_pc]
  cases (setPstateFromPsr spsr (illegalReturn spsr s) s.pstate).t
  · exact alignedFor_alignWord a
  · exact alignedFor_alignHalf a

/-- A branch left a misaligned pc: in A32 state, its address's bits[1:0] being 10 and kept (R157, log 17). -/
def keepsTen (s t : State) : Prop :=
  Config.a32ForceAlignPc = false ∧ s.pstate.t = false ∧ t.pstate.t = false ∧ t.pc.extractLsb' 0 2 = 2

theorem bxWritePC_pcAligned (a : Word) {s : State} (hs : s.pstate.t = false) :
    (bxWritePC a s).pcAligned = true ∨ (a.extractLsb' 0 2 = 2 ∧ keepsTen s (bxWritePC a s)) := by
  unfold bxWritePC
  split
  · exact .inl (pcAligned_iff.mpr (alignedFor_alignHalf a))
  · next h0 =>
    have hlow := extractLsb'_two_of_even (Bool.eq_false_iff.mpr h0)
    rw [pcAligned_iff]
    cases h1 : a.getLsbD 1
    · rw [h1] at hlow
      exact .inl hlow
    · rw [h1] at hlow
      cases hc : Config.a32ForceAlignPc
      · exact .inr ⟨hlow, hc, hs, rfl, hlow⟩
      · exact .inl (alignedFor_alignWord a)

theorem aluWritePC_pcAligned (a : Word) (s : State) :
    (aluWritePC a s).pcAligned = true ∨ (a.extractLsb' 0 2 = 2 ∧ keepsTen s (aluWritePC a s)) := by
  unfold aluWritePC
  split
  · next ht =>
    rw [pcAligned_iff, branchWritePC_pc, branchWritePC_pstate, ht]
    exact .inl (alignedFor_alignHalf a)
  · next ht => exact bxWritePC_pcAligned a (Bool.eq_false_iff.mpr ht)

theorem branchTo_pcAligned (a : Word) (s : State) :
    (branchTo a s).pcAligned = true ∨ (a.extractLsb' 0 2 = 2 ∧ keepsTen s (branchTo a s)) :=
  (aluWritePC_pcAligned a _).imp_right fun ⟨ha, hc, ht, h⟩ => ⟨ha, hc, (Pstate.itAdvanced_t _).symm.trans ht, h⟩

/-! ## Every step -/

theorem pcAligned_withIT (s : State) (it : BitVec 8) :
    { s with pstate := { s.pstate with it := it } }.pcAligned = s.pcAligned := rfl

theorem keepsTen_withIT (s t : State) (it : BitVec 8) :
    keepsTen s { t with pstate := { t.pstate with it := it } } ↔ keepsTen s t := Iff.rfl

theorem Effect.pcAligned {i : Instr} {s t : State} (hb : s.basesAligned) (hs : s.pcAligned = true)
    (hi : i.isT32 = s.pstate.t) (h : Effect i s t) : t.pcAligned = true ∨ keepsTen s t := by
  cases h with
  | advances => exact .inl (advance_pcAligned rfl hi hs)
  | writes fresh f r k hd hpc hset hl =>
    exact .inl (writeResult_pcAligned (s := { s with fresh := fresh }) hl hi hs r k)
  | branches fresh a => exact (branchTo_pcAligned a _).imp_right And.right
  | branchesFreeIT fresh fresh' a =>
    rw [pcAligned_withIT, keepsTen_withIT]
    exact (aluWritePC_pcAligned a _).imp_right And.right
  | advancesFreeIT fresh fresh' hT2 =>
    obtain ⟨dn, rm, rdn, rfl, -⟩ := hT2
    rw [pcAligned_withIT]
    exact .inl (advance_pcAligned (i := .addT2 dn rm rdn) rfl hi hs)
  | returns fresh a spsr => exact .inl (exceptionReturn_pcAligned a spsr _)
  | undefined fresh => exact .inl (takeException_pcAligned (s := { s with fresh := fresh }) hb 0)

/-- Where no stop is decided, an A32 branch's target does not have bits[1:0] 10. -/
theorem StepEffect.pcAligned {i : Instr} {s t : State} (hs : s.pcAligned = true) (hi : i.isT32 = s.pstate.t)
    (h : StepEffect i s t) : t.pcAligned = true := by
  cases h with
  | advances => exact advance_pcAligned rfl hi hs
  | writes f r k hd hpc hset hl => exact writeResult_pcAligned hl hi hs r k
  | branches a hd hset ha =>
    refine (branchTo_pcAligned a s).resolve_right ?_
    rintro ⟨hten, -, ht, -⟩
    exact ha (hi.trans ht) ht hten
  | returns a spsr => exact exceptionReturn_pcAligned a spsr s

theorem takeIllegalState_pcAligned {s : State} (hb : s.basesAligned) : (takeIllegalState s).pcAligned = true :=
  takeException_pcAligned (s := { s with fresh := s.fresh + 1 }) hb _

theorem step_pcAligned {s t : State} (hb : s.basesAligned) (h : step s = .next t) : t.pcAligned = true := by
  rcases step_next h with ⟨-, rfl⟩ | ⟨i, hf, -, -⟩
  · exact takeIllegalState_pcAligned hb
  · exact (step_effect hf (frontEnd_wellFormed hf) h).pcAligned (frontEnd_ok hf).1 (frontEnd_isT32 hf)

theorem permittedStep_pcAligned {s t : State} (hb : s.basesAligned) (h : permittedStep s = .next t) :
    t.pcAligned = true ∨ keepsTen s t := by
  rcases permittedStep_next h with ⟨-, rfl⟩ | ⟨i, hf, h⟩
  · exact .inl (takeIllegalState_pcAligned hb)
  · exact (exec_effect h).pcAligned hb (frontEnd_ok hf).1 (frontEnd_isT32 hf)

/-- Settles O54: by the effects of a step, of which only an A32 branch to bits[1:0] 10 can leave a misaligned pc. -/
theorem stepKeepsPcAligned : Obligations.StepKeepsPcAligned :=
  fun _ _ hb => ⟨step_pcAligned hb, permittedStep_pcAligned hb⟩

theorem permittedStep_mem {s t : State} (h : permittedStep s = .next t) : t.mem = s.mem := by
  rcases permittedStep_next h with ⟨-, rfl⟩ | ⟨i, -, h⟩
  · exact takeException_mem _ _
  · exact (exec_effect h).mem_eq

theorem permittedStep_controlsUnchanged {s t : State} (h : permittedStep s = .next t) : controlsUnchanged s t := by
  rcases permittedStep_next h with ⟨-, rfl⟩ | ⟨i, -, h⟩
  · exact takeException_controlsUnchanged _ _
  · exact (exec_effect h).controlsUnchanged

/-- Settles O51: memory and the bases stay, and a pc that is aligned, or has bits[1:0] 10, is even. -/
theorem stepKeepsSound : Obligations.StepKeepsSound := by
  rintro s t ⟨hm, -, hb⟩ h
  replace h : permittedStep s = .next t := h.elim permittedStep_of_step id
  obtain ⟨hv, hh, -⟩ := permittedStep_controlsUnchanged h
  refine ⟨permittedStep_mem h ▸ hm, ?_, by rwa [State.basesAligned, hv, hh]⟩
  rcases permittedStep_pcAligned hb h with h | ⟨-, -, -, hten⟩
  · exact (pcAligned_iff.mp h).even
  · simpa using congrArg (·.getLsbD 0) hten

end Sys2Proof.Machine
end

section
/-! PROOFS. Every step keeps the IT state legal (10_state.md R31; 41_helper_functions.md R146, R162;
70_reset_and_hazards.md R220; logs 15, 19). -/

namespace Sys2Proof.Machine
open Sys2Proof Sys2Proof.Claims

/-! ## What each operation makes of the IT state -/

theorem Pstate.itAdvanced_it (p : Pstate) :
    p.itAdvanced.it = if p.t && inITBlock p.it then itAdvance p.it else p.it := by
  unfold Pstate.itAdvanced
  split <;> rfl

/-- Advancing leaves the block or stays inside it. -/
theorem itAdvance_legal (it : BitVec 8) : itAdvance it = 0 ∨ inITBlock (itAdvance it) = true := by
  revert it; decide

theorem Pstate.itAdvanced_legal {p : Pstate} (h : p.it = 0 ∨ (p.t = true ∧ inITBlock p.it = true)) :
    p.itAdvanced.it = 0 ∨ (p.itAdvanced.t = true ∧ inITBlock p.itAdvanced.it = true) := by
  rw [Pstate.itAdvanced_t, Pstate.itAdvanced_it]
  split
  · next hc => exact (itAdvance_legal p.it).imp_right fun hin => ⟨(Bool.and_eq_true_iff.mp hc).1, hin⟩
  · exact h

theorem writeResult_itLegal {s : State} (h : s.itLegal) (f : AddForm) (r : Word) (k : Nzcv) :
    (writeResult f r k s).itLegal := by
  unfold State.itLegal
  rw [writeResult_pstate]
  split <;> exact Pstate.itAdvanced_legal h

/-- A branch keeps T32 state, and from A32 state the IT state is zero. -/
theorem aluWritePC_itLegal {s : State} (h : s.itLegal) (a : Word) : (aluWritePC a s).itLegal := by
  unfold State.itLegal
  obtain ⟨t, heq, ht⟩ := aluWritePC_pstate a s
  rw [heq]
  exact h.imp_right fun ⟨hs, hin⟩ => ⟨ht hs, hin⟩

theorem branchTo_itLegal {s : State} (h : s.itLegal) (a : Word) : (branchTo a s).itLegal :=
  aluWritePC_itLegal (s := { s with pstate := s.pstate.itAdvanced }) (Pstate.itAdvanced_legal h) a

theorem takeException_itLegal (ec : BitVec 6) (s : State) : (takeException ec s).itLegal := by
  rcases takeException_cases ec s with ⟨-, h⟩ | ⟨-, -, h⟩ | ⟨-, -, h⟩ <;> rw [h] <;> exact .inl rfl

theorem restoredIT_legal (t : Bool) (spsr : Word) :
    restoredIT t spsr = 0 ∨ (t = true ∧ inITBlock (restoredIT t spsr) = true) := by
  unfold restoredIT
  dsimp only
  split
  · next h => exact .inr (Bool.and_eq_true_iff.mp h)
  · exact .inl rfl

theorem exceptionReturn_itLegal (a spsr : Word) (s : State) : (exceptionReturn a spsr s).itLegal :=
  restoredIT_legal _ spsr

/-! ## Every step -/

/-- The word after which the IT state may be UNKNOWN (U4): a T2 branch, its Rm not the PC, inside an IT block that it
does not end. -/
def freesIT (i : Instr) (s : State) : Prop :=
  ∃ dn rm rdn, i = .addT2 dn rm rdn ∧ regDnRdn dn rdn = 15#4 ∧ rm ≠ 15#4 ∧ inITBlock s.pstate.it = true ∧
    lastInITBlock s.pstate.it = false

theorem Effect.itLegal {i : Instr} {s t : State} (hs : s.itLegal) (hi : ¬ freesIT i s) (h : Effect i s t) :
    t.itLegal := by
  cases h with
  | advances => exact Pstate.itAdvanced_legal hs
  | writes fresh f r k => exact writeResult_itLegal (s := { s with fresh := fresh }) hs f r k
  | branches fresh a => exact branchTo_itLegal (s := { s with fresh := fresh }) hs a
  | branchesFreeIT fresh fresh' a hT2 hd hin hl | advancesFreeIT fresh fresh' hT2 hd hin hl =>
    obtain ⟨dn, rm, rdn, rfl, hm⟩ := hT2
    exact absurd ⟨dn, rm, rdn, rfl, hd, hm, hin, hl⟩ hi
  | returns fresh a spsr => exact exceptionReturn_itLegal a spsr _
  | undefined => exact takeException_itLegal 0 _

/-- A step stops at such a word (R80). -/
theorem not_freesIT_of_undecided {i : Instr} {s : State} (h : decidedStop i s = none) : ¬ freesIT i s := by
  rintro ⟨dn, rm, rdn, rfl, hd, -, hin, hl⟩
  have hu : isUnpredictable s.pstate.it (.addT2 dn rm rdn) = true := by simp [isUnpredictable, hd, hin, hl]
  obtain ⟨case, hc⟩ := decidedT2_of_unpredictable hu
  rw [(decidedT32_none h).1] at hc
  cases hc

theorem permittedStep_itLegal {s t : State} (hs : s.itLegal) (hi : ∀ i, frontEnd s = .ok i → ¬ freesIT i s)
    (h : permittedStep s = .next t) : t.itLegal := by
  rcases permittedStep_next h with ⟨-, rfl⟩ | ⟨i, hf, h⟩
  · exact takeException_itLegal _ _
  · exact (exec_effect h).itLegal hs (hi i hf)

/-- Settles O53: by the effects of a step, of which only U4's leave a free IT state. -/
theorem stepKeepsITLegal : Obligations.StepKeepsITLegal := by
  refine fun s t hs => ⟨fun h => ?_, fun h hlast => permittedStep_itLegal hs ?_ h⟩
  · refine permittedStep_itLegal hs (fun i hf => ?_) (permittedStep_of_step h)
    rw [step_of_frontEnd hf] at h
    exact not_freesIT_of_undecided (perform_next h).1
  · rintro i hf ⟨dn, rm, rdn, rfl, hd, hm, hin, hl⟩
    rw [hlast dn rm rdn hf hd hm hin] at hl
    cases hl

end Sys2Proof.Machine
end

section
/-! PROOFS. Modes and saved PSTATE images: which returns are illegal, and that a legal return undoes a save
(10_state.md R30, R32; 41_helper_functions.md R162; 60_exceptions.md R195; logs 14, 15, 23). -/

namespace Sys2Proof.Machine
open Sys2Proof Sys2Proof.Claims

/-! ## Which returns are illegal -/

theorem Mode.ofBits_eq_some_iff {b : BitVec 5} {m : Mode} : Mode.ofBits b = some m ↔ b = m.bits := by
  revert b; cases m <;> decide

theorem Mode.ofBits_eq_none_iff {b : BitVec 5} : Mode.ofBits b = none ↔ ∀ m : Mode, b ≠ m.bits := by
  simp only [Option.eq_none_iff_forall_ne_some, ne_eq, Mode.ofBits_eq_some_iff]

theorem Mode.bits_four (m : Mode) : m.bits.getLsbD 4 = true := by cases m <;> rfl

/-- With M[4] 0 an SPSR names no mode. -/
theorem ne_modeBits_of_bit_four {spsr : Word} (h : spsr.getLsbD 4 = false) (m : Mode) :
    spsr.extractLsb' 0 5 ≠ m.bits := by
  intro hm
  have h4 : (spsr.extractLsb' 0 5).getLsbD 4 = spsr.getLsbD 4 := by simp
  rw [hm, h, m.bits_four] at h4
  cases h4

theorem illegalReturn_of_noMode {spsr : Word} (h : ∀ m : Mode, spsr.extractLsb' 0 5 ≠ m.bits) (s : State) :
    illegalReturn spsr s = true := by
  unfold illegalReturn
  rw [Mode.ofBits_eq_none_iff.mpr h]

theorem level_eq (secure : Bool) (m : Mode) : level secure m = exceptionLevel secure m := by
  unfold level exceptionLevel
  cases m <;> simp

theorem illegalReturn_iff_of_mode {spsr : Word} {m : Mode} (h : spsr.extractLsb' 0 5 = m.bits) (s : State) :
    illegalReturn spsr s = true ↔
      level s.secure s.pstate.mode < level s.secure m ∨
      (m = .hyp ∧ (s.secure = true ∨ Config.hasHyp = false)) ∨
      (m = .monitor ∧ (s.secure = false ∨ Config.hasMonitor = false)) := by
  unfold illegalReturn
  rw [Mode.ofBits_eq_some_iff.mpr h]
  simp [level_eq, or_assoc]

/-- Settles O22: by whether SPSR.M names a mode. -/
theorem illegalReturnEvents : Obligations.IllegalReturnEvents :=
  fun _ s => ⟨fun h => illegalReturn_of_noMode (ne_modeBits_of_bit_four h) s, fun h => illegalReturn_of_noMode h s,
    fun _ h => illegalReturn_iff_of_mode h s⟩

/-! ## The saved image -/

theorem image_mode (p : Pstate) : p.image.extractLsb' 0 5 = p.mode.bits := by
  ext i hi
  interval_cases i <;> simp [Pstate.image, getElem_field]

theorem image_ge (p : Pstate) : p.image.extractLsb' 16 4 = p.ge := by
  ext i hi
  interval_cases i <;> simp [Pstate.image, getElem_field]

theorem image_itHigh (p : Pstate) : p.image.extractLsb' 10 6 = p.it.extractLsb' 2 6 := by
  ext i hi
  interval_cases i <;> simp [Pstate.image, getElem_field]

theorem image_itLow (p : Pstate) : p.image.extractLsb' 25 2 = p.it.extractLsb' 0 2 := by
  ext i hi
  interval_cases i <;> simp [Pstate.image, getElem_field]

/-- The two fields that hold an IT state put it together again (R30, R31). -/
theorem it_of_fields (it : BitVec 8) :
    field 8 2 (it.extractLsb' 2 6) ||| field 8 0 (it.extractLsb' 0 2) = it := by
  revert it; decide

theorem restoredIT_image {p : Pstate} (h : p.it = 0 ∨ (p.t = true ∧ inITBlock p.it = true)) :
    restoredIT p.t p.image = p.it := by
  unfold restoredIT
  rw [image_itHigh, image_itLow, it_of_fields]
  rcases h with h | ⟨ht, hin⟩
  · simp [h]
  · simp [ht, hin]

/-- A legal return restores every field but an IT state that is not permitted and the optional fields that do not
exist. -/
theorem setPstateFromPsr_image (p q : Pstate) :
    setPstateFromPsr p.image false q =
      { p with
        it := restoredIT p.t p.image
        ssbs := if Config.hasSsbs then p.ssbs else q.ssbs
        pan := if Config.hasPan then p.pan else q.pan
        dit := if Config.hasDit then p.dit else q.dit } := by
  unfold setPstateFromPsr
  rw [image_mode, Mode.ofBits_eq_some_iff.mpr rfl, image_ge]
  simp [Pstate.image, getElem_field]

/-- Settles O58: each of the fields that a return may not restore is the same already. -/
theorem savedPstateRestores : Obligations.SavedPstateRestores := by
  intro p q hit hssbs hpan hdit
  rw [setPstateFromPsr_image, restoredIT_image hit, hssbs, hpan, hdit]
  simp only [ite_self]

end Sys2Proof.Machine
end

section
/-! PROOFS. Fetch: what the bytes at the pc make, and where a missing one stops the step (20_memory.md R51, R52, R53,
R56; 30_encoding.md R88; logs 5, 18). -/

namespace Sys2Proof.Machine
open Sys2Proof

/-! ## Little-endian values -/

/-- A field's place in the number its bitstring spells. -/
theorem toNat_field {w lo n : Nat} (h : lo + n ≤ w) (x : BitVec n) : (field w lo x).toNat = 2 ^ lo * x.toNat := by
  have hx : 2 ^ lo * x.toNat < 2 ^ w := calc
    2 ^ lo * x.toNat < 2 ^ lo * 2 ^ n := Nat.mul_lt_mul_of_pos_left x.isLt (Nat.two_pow_pos lo)
    _ = 2 ^ (lo + n) := (Nat.pow_add 2 lo n).symm
    _ ≤ 2 ^ w := Nat.pow_le_pow_right (by decide) h
  rw [field, BitVec.toNat_shiftLeft, BitVec.toNat_setWidth_of_le (by omega), Nat.shiftLeft_eq, Nat.mul_comm,
    Nat.mod_eq_of_lt hx]

theorem toNat_halfOfBytes (b0 b1 : Byte) : (halfOfBytes b0 b1).toNat = b0.toNat + 2 ^ 8 * b1.toNat := by
  rw [halfOfBytes, BitVec.toNat_or, toNat_field (by decide), toNat_field (by decide), Nat.pow_zero, Nat.one_mul,
    ← Nat.two_pow_add_eq_or_of_lt b0.isLt, Nat.add_comm]

theorem toNat_wordOfHalves (low high : Half) : (wordOfHalves low high).toNat = low.toNat + 2 ^ 16 * high.toNat := by
  rw [wordOfHalves, BitVec.toNat_or, toNat_field (by decide), toNat_field (by decide), Nat.pow_zero, Nat.one_mul,
    ← Nat.two_pow_add_eq_or_of_lt low.isLt, Nat.add_comm]

theorem ofNat_eq_halfOfBytes (b0 b1 : Byte) : BitVec.ofNat 16 (b0.toNat + 2 ^ 8 * b1.toNat) = halfOfBytes b0 b1 := by
  rw [← toNat_halfOfBytes, BitVec.ofNat_toNat, BitVec.setWidth_eq]

theorem ofNat_eq_wordOfHalves (b0 b1 b2 b3 : Byte) :
    BitVec.ofNat 32 (b0.toNat + 2 ^ 8 * b1.toNat + 2 ^ 16 * b2.toNat + 2 ^ 24 * b3.toNat) =
      wordOfHalves (halfOfBytes b0 b1) (halfOfBytes b2 b3) := by
  have h : b0.toNat + 2 ^ 8 * b1.toNat + 2 ^ 16 * b2.toNat + 2 ^ 24 * b3.toNat =
      (wordOfHalves (halfOfBytes b0 b1) (halfOfBytes b2 b3)).toNat := by
    rw [toNat_wordOfHalves, toNat_halfOfBytes, toNat_halfOfBytes]
    omega
  rw [h, BitVec.ofNat_toNat, BitVec.setWidth_eq]

/-! ## Bytes that memory holds -/

theorem fetchByte_of_some {s : State} {a : Word} {b : Byte} (h : s.readByte a = some b) : fetchByte s a = .ok b := by
  rw [fetchByte, h]

theorem fetchByte_of_none {s : State} {a : Word} (h : s.readByte a = none) :
    fetchByte s a = .error (.fetchUnmapped a) := by
  rw [fetchByte, h]

theorem fetchHalf_of_some {s : State} {a : Word} {b0 b1 : Byte} (h0 : s.readByte a = some b0)
    (h1 : s.readByte (a + 1) = some b1) : fetchHalf s a = .ok (halfOfBytes b0 b1) := by
  simp only [fetchHalf, fetchByte_of_some h0, fetchByte_of_some h1]

theorem fetch_eq_a32 {s : State} {low high : Half} (ht : s.pstate.t = false) (hlow : fetchHalf s s.pc = .ok low)
    (hhigh : fetchHalf s (s.pc + 2) = .ok high) : fetch s = .ok (.a32 (wordOfHalves low high)) := by
  simp only [fetch, fetchWord, ht, hlow, hhigh, Bool.false_eq_true, if_false]

theorem fetch_eq_t16 {s : State} {hw1 : Half} (ht : s.pstate.t = true) (h1 : fetchHalf s s.pc = .ok hw1)
    (hshort : matchesT3 hw1 = false) : fetch s = .ok (.t16 hw1) := by
  simp only [fetch, ht, h1, hshort, Bool.false_eq_true, if_true, if_false]

theorem fetch_eq_t32 {s : State} {hw1 hw2 : Half} (ht : s.pstate.t = true) (h1 : fetchHalf s s.pc = .ok hw1)
    (hlong : matchesT3 hw1 = true) (h2 : fetchHalf s (s.pc + 2) = .ok hw2) : fetch s = .ok (.t32 hw1 hw2) := by
  simp only [fetch, ht, h1, hlong, h2, if_true]

/-- Settles O46: by the instruction set, and in T32 by T3's fixed bits; the halves are fetched byte by byte. -/
theorem fetchIsLittleEndian : Obligations.FetchIsLittleEndian := by
  intro s b0 b1 h0 h1
  have hlow := fetchHalf_of_some h0 h1
  rw [ofNat_eq_halfOfBytes]
  refine ⟨fun ht hshort => fetch_eq_t16 ht hlow (beq_eq_false_iff_ne.mpr hshort), fun b2 b3 h2 h3 => ?_⟩
  have hhigh : fetchHalf s (s.pc + 2) = .ok (halfOfBytes b2 b3) :=
    fetchHalf_of_some h2 (by rw [BitVec.add_assoc]; exact h3)
  rw [ofNat_eq_wordOfHalves, ofNat_eq_halfOfBytes]
  exact ⟨fun ht => fetch_eq_a32 ht hlow hhigh, fun ht hlong => fetch_eq_t32 ht hlow (beq_iff_eq.mpr hlong) hhigh⟩

/-! ## A byte that memory does not hold -/

/-- The address `k` after `a` is the first from `a` on at which memory holds no byte. -/
def FirstMissing (s : State) (a : Word) (k : Nat) : Prop :=
  (∀ j < k, s.readByte (a + BitVec.ofNat 32 j) ≠ none) ∧ s.readByte (a + BitVec.ofNat 32 k) = none

theorem fetchHalf_of_firstMissing {s : State} {a : Word} {k : Nat} (h : FirstMissing s a k) (hk : k < 2) :
    fetchHalf s a = .error (.fetchUnmapped (a + BitVec.ofNat 32 k)) := by
  obtain ⟨hheld, hnone⟩ := h
  have hfault := fetchByte_of_none hnone
  match k with
  | 0 =>
    rw [BitVec.add_zero] at hfault ⊢
    rw [fetchHalf, hfault]
  | 1 =>
    obtain ⟨b0, h0⟩ := Option.ne_none_iff_exists'.mp (hheld 0 (by decide))
    rw [BitVec.add_zero] at h0
    change fetchByte s (a + 1) = _ at hfault
    simp only [fetchHalf, fetchByte_of_some h0, hfault]

theorem FirstMissing.exists_firstHalf {s : State} {a : Word} {k : Nat} (h : FirstMissing s a (k + 2)) :
    ∃ b0 b1, s.readByte a = some b0 ∧ s.readByte (a + 1) = some b1 := by
  obtain ⟨hheld, -⟩ := h
  obtain ⟨b0, h0⟩ := Option.ne_none_iff_exists'.mp (hheld 0 (by omega))
  obtain ⟨b1, h1⟩ := Option.ne_none_iff_exists'.mp (hheld 1 (by omega))
  exact ⟨b0, b1, by rwa [BitVec.add_zero] at h0, h1⟩

theorem add_two_add_ofNat (a : Word) (k : Nat) : a + 2 + BitVec.ofNat 32 k = a + BitVec.ofNat 32 (k + 2) := by
  rw [BitVec.add_assoc, BitVec.ofNat_add, BitVec.add_comm 2, BitVec.ofNat_eq_ofNat]

theorem FirstMissing.secondHalf {s : State} {a : Word} {k : Nat} (h : FirstMissing s a (k + 2)) :
    FirstMissing s (a + 2) k := by
  obtain ⟨hheld, hnone⟩ := h
  refine ⟨fun j hj => ?_, ?_⟩ <;> rw [add_two_add_ofNat]
  · exact hheld (j + 2) (by omega)
  · exact hnone

theorem fetch_error_of_firstHalf {s : State} {f : Fault} (h : fetchHalf s s.pc = .error f) : fetch s = .error f := by
  cases ht : s.pstate.t <;> simp [fetch, fetchWord, ht, h]

/-- In A32, or after a halfword with T3's fixed bits, the second halfword is needed too. -/
theorem fetch_error_of_secondHalf {s : State} {hw1 : Half} {f : Fault} (h1 : fetchHalf s s.pc = .ok hw1)
    (hlong : s.pstate.t = false ∨ matchesT3 hw1 = true) (h2 : fetchHalf s (s.pc + 2) = .error f) :
    fetch s = .error f := by
  rcases hlong with ht | hlong
  · simp only [fetch, fetchWord, ht, h1, h2, Bool.false_eq_true, if_false]
  · cases ht : s.pstate.t <;> simp only [fetch, fetchWord, ht, h1, hlong, h2, Bool.false_eq_true, if_true, if_false]

theorem step_of_misaligned {s : State} (h : s.pcAligned = false) : step s = .refused .misalignedPc := by
  simp [step, frontEnd, h]

theorem step_of_fetch_error {s : State} {f : Fault} (ha : s.pcAligned = true) (h : fetch s = .error f) :
    step s = .fault f := by
  simp [step, frontEnd, ha, h]

/-- Settles O47: by the halfword, the first or the second, in which the first missing byte lies. -/
theorem unfetchableStops : Obligations.UnfetchableStops := by
  refine fun s => ⟨step_of_misaligned, fun ha k hheld hnone hneeded => step_of_fetch_error ha ?_⟩
  have hk : FirstMissing s s.pc k := ⟨hheld, hnone⟩
  match k with
  | 0 | 1 => exact fetch_error_of_firstHalf (fetchHalf_of_firstMissing hk (by decide))
  | k + 2 =>
    obtain ⟨hlt, hlong⟩ : k + 2 < 4 ∧ _ := hneeded.resolve_left (by omega)
    obtain ⟨b0, b1, h0, h1⟩ := hk.exists_firstHalf
    refine fetch_error_of_secondHalf (fetchHalf_of_some h0 h1) (hlong.imp_right ?_) ?_
    · rintro ⟨c0, c1, hc0, hc1, hfixed⟩
      rw [ofNat_eq_halfOfBytes] at hfixed
      cases h0.symm.trans hc0
      cases h1.symm.trans hc1
      exact beq_iff_eq.mpr hfixed
    · rw [fetchHalf_of_firstMissing hk.secondHalf (by omega), add_two_add_ofNat]

end Sys2Proof.Machine
end

section
/-! PROOFS. Decoding gives back what was encoded: the fields of each layout, from the instruction's bits and from its
bytes in memory order (20_memory.md R51, R52; 30_encoding.md R70 to R84, R88). -/

namespace Sys2Proof
open Machine

/-! ## Fields of a bitstring put together from fields -/

@[simp] theorem extractLsb'_field_same {w lo n : Nat} (h : lo + n ≤ w) (x : BitVec n) :
    (field w lo x).extractLsb' lo n = x := by
  ext i hi
  rw [BitVec.getElem_extractLsb', getLsbD_field]
  simp [show lo + i < w by omega, hi]

@[simp] theorem extractLsb'_field_disjoint {w lo n start len : Nat} (h : lo + n ≤ start ∨ start + len ≤ lo)
    (x : BitVec n) : (field w lo x).extractLsb' start len = 0#len := by
  ext i hi
  rw [BitVec.getElem_extractLsb', getLsbD_field, BitVec.getElem_zero]
  by_cases hlo : lo ≤ start + i
  · rw [BitVec.getLsbD_of_ge x _ (by omega), Bool.and_false]
  · simp [hlo]

/-! ## The fixed bits -/

theorem and_field_allOnes {w : Nat} (x : BitVec w) (lo n : Nat) :
    x &&& field w lo (BitVec.allOnes n) = field w lo (x.extractLsb' lo n) := by
  ext i hi
  by_cases hlo : lo ≤ i
  · simp [getElem_field, hlo, show lo + (i - lo) = i by omega, hi, Bool.and_comm]
  · simp [getElem_field, hlo]

theorem field_inj {w lo n : Nat} (h : lo + n ≤ w) {x y : BitVec n} : field w lo x = field w lo y ↔ x = y :=
  ⟨fun he => by rw [← extractLsb'_field_same h x, he, extractLsb'_field_same h], fun he => he ▸ rfl⟩

/-- A test of the bits that a mask selects is a test of the field they make. -/
theorem masked_beq_iff {w lo n : Nat} {x mask fixed : BitVec w} {v : BitVec n} (h : lo + n ≤ w)
    (hmask : mask = field w lo (BitVec.allOnes n)) (hfixed : fixed = field w lo v) :
    (x &&& mask == fixed) = true ↔ x.extractLsb' lo n = v := by
  rw [beq_iff_eq, hmask, hfixed, and_field_allOnes, field_inj h]

/-- T1's fixed bits are bits 15:9 (R76). -/
theorem matchesT1_iff {h : Half} : matchesT1 h = true ↔ h.extractLsb' 9 7 = 0b0001100#7 :=
  masked_beq_iff (by decide) (by decide) (by decide)

/-- T2's fixed bits are bits 15:8 (R78). -/
theorem matchesT2_iff {h : Half} : matchesT2 h = true ↔ h.extractLsb' 8 8 = 0b01000100#8 :=
  masked_beq_iff (by decide) (by decide) (by decide)

/-- T3's fixed bits are bits 15:5 of the first halfword (R81). -/
theorem matchesT3_iff {h : Half} : matchesT3 h = true ↔ h.extractLsb' 5 11 = 0b11101011000#11 :=
  masked_beq_iff (by decide) (by decide) (by decide)

/-- A1's fixed bits are bits 27:21 and bit 4 (R71). -/
theorem matchesA1_iff {w : Word} :
    matchesA1 w = true ↔ w.extractLsb' 21 7 = 0b0000100#7 ∧ w.extractLsb' 4 1 = 0#1 := by
  rw [matchesA1, beq_iff_eq,
    show 0x0FE00010#32 = field 32 21 (BitVec.allOnes 7) ||| field 32 4 (BitVec.allOnes 1) by decide,
    BitVec.and_or_distrib_left, and_field_allOnes, and_field_allOnes,
    show 0x00800000#32 = field 32 21 0b0000100#7 ||| field 32 4 0#1 by decide]
  refine ⟨fun h => ⟨?_, ?_⟩, fun ⟨hop, hbit⟩ => by rw [hop, hbit]⟩
  · simpa [BitVec.extractLsb'_or] using congrArg (BitVec.extractLsb' 21 7) h
  · simpa [BitVec.extractLsb'_or] using congrArg (BitVec.extractLsb' 4 1) h

/-- A halfword that decodes on its own does not have T3's fixed bits (R88): its bit 15 is 0. -/
theorem matchesT3_of_decodeT16 {inIT : Bool} {h : Half} {i : Instr} (hd : decodeT16 inIT h = .ok i) :
    matchesT3 h = false := by
  have hbit : h.getLsbD 15 = false := by
    unfold decodeT16 at hd
    split at hd
    · next h1 => simpa using congrArg (BitVec.getLsbD · 6) (matchesT1_iff.mp h1)
    · split at hd
      · next h2 => simpa using congrArg (BitVec.getLsbD · 7) (matchesT2_iff.mp h2)
      · cases hd
  refine Bool.eq_false_iff.mpr fun h3 => ?_
  have hset : h.getLsbD 15 = true := by simpa using congrArg (BitVec.getLsbD · 10) (matchesT3_iff.mp h3)
  exact Bool.false_ne_true (hbit.symm.trans hset)

theorem matchesT3_of_decodeT3 {hw1 hw2 : Half} {i : Instr} (hd : decodeT3 hw1 hw2 = .ok i) : matchesT3 hw1 = true := by
  by_contra h3
  rw [decodeT3, Bool.eq_false_iff.mpr h3] at hd
  cases hd

/-! ## Decoding each layout -/

theorem decodeBits_encodeA1 {cond rn : RegNum} (h : wellFormedA1 cond rn) (inIT : Bool) (s : BitVec 1) (rd : RegNum)
    (imm5 : BitVec 5) (stype : BitVec 2) (rm : RegNum) :
    decodeBits inIT (encodeA1 cond s rn rd imm5 stype rm) =
      .ok (if isRrxPattern imm5 stype then
          if s = 1#1 then .addsRrxA1 cond rn rd rm else .addRrxA1 cond rn rd rm
        else if s = 1#1 then .addsShiftA1 cond rn rd imm5 stype rm
        else .addShiftA1 cond rn rd imm5 stype rm) := by
  obtain ⟨hcond, hrn⟩ := h
  simp only [decodeBits, encodeA1, decodeA1, Bool.or_eq_true, Bool.not_eq_true', Bool.eq_false_iff, matchesA1_iff,
    ne_eq]
  obtain rfl | rfl := s.eq_zero_or_eq_one <;> by_cases hrrx : isRrxPattern imm5 stype <;>
    simp [BitVec.extractLsb'_or, getElem_field, hcond, hrn, hrrx]

theorem decodeBits_encodeT3 (s : BitVec 1) {rn rd : RegNum} (h : wellFormedT3 (s == 1#1) rn rd) (inIT : Bool)
    (sbz : BitVec 1) (imm3 : BitVec 3) (imm2 stype : BitVec 2) (rm : RegNum) :
    decodeBits inIT (encodeT3 s sbz rn imm3 rd imm2 stype rm) =
      .ok (if isRrxPattern (amountField imm3 imm2) stype then
          if s = 1#1 then .addsRrxT3 sbz rn rd rm else .addRrxT3 sbz rn rd rm
        else if s = 1#1 then .addsShiftT3 sbz rn imm3 rd imm2 stype rm
        else .addShiftT3 sbz rn imm3 rd imm2 stype rm) := by
  obtain ⟨hcmn, hrn⟩ := h
  simp only [decodeBits, encodeT3, decodeT3, Bool.not_eq_true', Bool.eq_false_iff, matchesT3_iff, ne_eq]
  obtain rfl | rfl := s.eq_zero_or_eq_one
  · by_cases hrrx : isRrxPattern (amountField imm3 imm2) stype <;>
      simp [BitVec.extractLsb'_or, getElem_field, hrn, hrrx]
  · have hrd : rd ≠ 15#4 := fun h => hcmn ⟨rfl, h⟩
    by_cases hrrx : isRrxPattern (amountField imm3 imm2) stype <;>
      simp [BitVec.extractLsb'_or, getElem_field, hrn, hrrx, hrd]

theorem decodeBits_encodeT1 (inIT : Bool) (rm rn rd : BitVec 3) :
    decodeBits inIT (encode (.addT1 rm rn rd)) = .ok (if inIT then .addT1 rm rn rd else .addsT1 rm rn rd) := by
  simp [decodeBits, encode, decodeT16, decodeT1, matchesT1_iff, BitVec.extractLsb'_or]

theorem decodeBits_encodeT2 {dn : BitVec 1} {rm : RegNum} {rdn : BitVec 3} (hd : regDnRdn dn rdn ≠ 13#4)
    (hm : rm ≠ 13#4) (inIT : Bool) : decodeBits inIT (encode (.addT2 dn rm rdn)) = .ok (.addT2 dn rm rdn) := by
  simp [decodeBits, encode, decodeT16, decodeT2, matchesT1_iff, matchesT2_iff, BitVec.extractLsb'_or, hd, hm]

/-- Decoding the encoding of a well-formed instruction, in the IT context its row needs, gives it back. -/
theorem decodeBits_encode {i : Instr} {inIT : Bool} (hwf : WellFormed i) (hfit : i.fitsContext inIT = true) :
    decodeBits inIT (encode i) = .ok i := by
  cases i with
  | addRrxA1 => exact decodeBits_encodeA1 (of_decide_eq_true hwf) ..
  | addsRrxA1 => exact decodeBits_encodeA1 (of_decide_eq_true hwf) ..
  | addShiftA1 =>
    obtain ⟨hwf, hshift⟩ := of_decide_eq_true hwf
    exact (decodeBits_encodeA1 hwf ..).trans (by rw [if_neg hshift]; rfl)
  | addsShiftA1 =>
    obtain ⟨hwf, hshift⟩ := of_decide_eq_true hwf
    exact (decodeBits_encodeA1 hwf ..).trans (by rw [if_neg hshift]; rfl)
  | addsT1 rm rn rd =>
    obtain rfl : inIT = false := by simpa [Instr.fitsContext] using hfit
    exact decodeBits_encodeT1 false rm rn rd
  | addT1 rm rn rd =>
    obtain rfl : inIT = true := hfit
    exact decodeBits_encodeT1 true rm rn rd
  | addT2 =>
    obtain ⟨hd, hm⟩ := of_decide_eq_true hwf
    exact decodeBits_encodeT2 hd hm inIT
  | addRrxT3 => exact decodeBits_encodeT3 0 (of_decide_eq_true hwf) ..
  | addsRrxT3 => exact decodeBits_encodeT3 1 (of_decide_eq_true hwf) ..
  | addShiftT3 =>
    obtain ⟨hwf, hshift⟩ := of_decide_eq_true hwf
    exact (decodeBits_encodeT3 0 hwf ..).trans (by rw [if_neg hshift]; rfl)
  | addsShiftT3 =>
    obtain ⟨hwf, hshift⟩ := of_decide_eq_true hwf
    exact (decodeBits_encodeT3 1 hwf ..).trans (by rw [if_neg hshift]; rfl)

/-! ## Bytes in memory order -/

theorem halfOfBytes_halfBytes (h : Half) : halfOfBytes (h.extractLsb' 0 8) (h.extractLsb' 8 8) = h := by
  rw [halfOfBytes, ← and_field_allOnes, ← and_field_allOnes, ← BitVec.and_or_distrib_left]
  exact BitVec.and_allOnes

/-- The two bytes of a halfword that stands at bit `lo` of a wider bitstring. -/
theorem halfOfBytes_extractLsb' {n : Nat} (x : BitVec n) (lo : Nat) :
    halfOfBytes (x.extractLsb' lo 8) (x.extractLsb' (lo + 8) 8) = x.extractLsb' lo 16 := by
  have hbyte (k : Nat) (hk : k + 8 ≤ 16) : (x.extractLsb' lo 16).extractLsb' k 8 = x.extractLsb' (lo + k) 8 := by
    ext i hi
    simp [show k + i < 16 by omega, Nat.add_assoc]
  rw [← halfOfBytes_halfBytes (x.extractLsb' lo 16), hbyte 0 (by decide), hbyte 8 (by decide)]
  rfl

theorem wordOfHalves_wordBytes (w : Word) :
    wordOfHalves (halfOfBytes (w.extractLsb' 0 8) (w.extractLsb' 8 8))
      (halfOfBytes (w.extractLsb' 16 8) (w.extractLsb' 24 8)) = w := by
  rw [halfOfBytes_extractLsb' w 0, halfOfBytes_extractLsb' w 16, wordOfHalves, ← and_field_allOnes,
    ← and_field_allOnes, ← BitVec.and_or_distrib_left]
  exact BitVec.and_allOnes

/-- Bits that decode to an instruction are read back from their bytes, whatever bytes follow. -/
theorem decode_bytes {inIT : Bool} {b : InstrBits} {i : Instr} (hd : decodeBits inIT b = .ok i) (rest : List Byte) :
    decode i.isT32 inIT (b.bytes ++ rest) = .ok (i, rest) := by
  cases b with
  | a32 w =>
    change decodeA1 w = .ok i at hd
    rw [(decodeA1_ok hd).1]
    simp [InstrBits.bytes, wordBytes, decode, wordOfHalves_wordBytes, hd, Except.map]
  | t16 h =>
    change decodeT16 inIT h = .ok i at hd
    rw [(decodeT16_ok hd).1]
    simp [InstrBits.bytes, halfBytes, decode, halfOfBytes_halfBytes, matchesT3_of_decodeT16 hd, hd, Except.map]
  | t32 hw1 hw2 =>
    change decodeT3 hw1 hw2 = .ok i at hd
    rw [(decodeT3_ok hd).1]
    simp [InstrBits.bytes, halfBytes, decode, halfOfBytes_halfBytes, matchesT3_of_decodeT3 hd, hd, Except.map]

/-- Settles O4: the encoding decodes to the instruction, and its bytes to what its bits decode to. -/
theorem decodeOfEncodedBytes : Obligations.DecodeOfEncodedBytes :=
  fun _ _ rest hwf hfit => decode_bytes (decodeBits_encode hwf hfit) rest

end Sys2Proof
end

section
/-! PROOFS. The decoder and the encoder are inverse: a bitstring is the sum of its fields, so a word that decodes is the
encoding of its answer; the words of other instructions are rejected by name (30_encoding.md R71 to R84, R90). -/

namespace Sys2Proof
open Machine Claims

/-- Settles O2: every row is a layout whose fields the decoder reads back. -/
theorem decodeOfEncode : Obligations.DecodeOfEncode := fun _ _ => decodeBits_encode

/-- Settles O1: each word by evaluation. -/
theorem specWordsDecode : Obligations.SpecWordsDecode := ⟨rfl, rfl, rfl, rfl, rfl, rfl, rfl⟩

/-! ## A bitstring from its fields -/

theorem ofBool_getLsbD {n : Nat} (x : BitVec n) (i : Nat) : BitVec.ofBool (x.getLsbD i) = x.extractLsb' i 1 := by
  ext j hj
  obtain rfl : j = 0 := by omega
  simp

theorem encodeA1_of_matches {w : Word} (h : matchesA1 w = true) :
    encodeA1 (w.extractLsb' 28 4) (w.extractLsb' 20 1) (w.extractLsb' 16 4) (w.extractLsb' 12 4) (w.extractLsb' 7 5)
      (w.extractLsb' 5 2) (w.extractLsb' 0 4) = .a32 w := by
  rw [encodeA1, ← eq_of_beq h]
  simp only [← and_field_allOnes, ← BitVec.and_or_distrib_left]
  exact congrArg InstrBits.a32 BitVec.and_allOnes

theorem encode_t1_of_matches {h : Half} (hm : matchesT1 h = true) :
    encode (.addT1 (h.extractLsb' 6 3) (h.extractLsb' 3 3) (h.extractLsb' 0 3)) = .t16 h := by
  rw [encode, ← eq_of_beq hm]
  simp only [← and_field_allOnes, ← BitVec.and_or_distrib_left]
  exact congrArg InstrBits.t16 BitVec.and_allOnes

theorem encode_t2_of_matches {h : Half} (hm : matchesT2 h = true) :
    encode (.addT2 (h.extractLsb' 7 1) (h.extractLsb' 3 4) (h.extractLsb' 0 3)) = .t16 h := by
  rw [encode, ← eq_of_beq hm]
  simp only [← and_field_allOnes, ← BitVec.and_or_distrib_left]
  exact congrArg InstrBits.t16 BitVec.and_allOnes

theorem encodeT3_of_matches {hw1 : Half} (h : matchesT3 hw1 = true) (hw2 : Half) :
    encodeT3 (hw1.extractLsb' 4 1) (hw2.extractLsb' 15 1) (hw1.extractLsb' 0 4) (hw2.extractLsb' 12 3)
      (hw2.extractLsb' 8 4) (hw2.extractLsb' 6 2) (hw2.extractLsb' 4 2) (hw2.extractLsb' 0 4) = .t32 hw1 hw2 := by
  rw [encodeT3, ← eq_of_beq h]
  simp only [← and_field_allOnes, ← BitVec.and_or_distrib_left]
  exact congrArg₂ InstrBits.t32 BitVec.and_allOnes BitVec.and_allOnes

/-! ## Encoding what was decoded -/

theorem encode_a1 (s : Bool) (cond rn rd : RegNum) (imm5 : BitVec 5) (stype : BitVec 2) (rm : RegNum) :
    encode (a1 s (decide (isRrxPattern imm5 stype)) cond rn rd imm5 stype rm) =
      encodeA1 cond (BitVec.ofBool s) rn rd imm5 stype rm := by
  by_cases h : isRrxPattern imm5 stype
  · obtain ⟨rfl, rfl⟩ := h
    cases s <;> rfl
  · rw [decide_eq_false h]
    cases s <;> rfl

theorem encode_t3 (s : Bool) (sbz : BitVec 1) (rn : RegNum) (imm3 : BitVec 3) (rd : RegNum) (imm2 stype : BitVec 2)
    (rm : RegNum) :
    encode (t3 s (decide (isRrxPattern (amountField imm3 imm2) stype)) sbz rn imm3 rd imm2 stype rm) =
      encodeT3 (BitVec.ofBool s) sbz rn imm3 rd imm2 stype rm := by
  by_cases h : isRrxPattern (amountField imm3 imm2) stype
  · obtain ⟨hamount, rfl⟩ := h
    obtain ⟨rfl, rfl⟩ : imm3 = 0#3 ∧ imm2 = 0#2 := by revert imm3 imm2; decide
    cases s <;> rfl
  · rw [decide_eq_false h]
    cases s <;> rfl

theorem encode_of_decodeA1 {w : Word} {i : Instr} (h : decodeA1 w = .ok i) : encode i = .a32 w := by
  suffices hi : matchesA1 w = true ∧ encode i = encodeA1 (w.extractLsb' 28 4) (w.extractLsb' 20 1) (w.extractLsb' 16 4)
      (w.extractLsb' 12 4) (w.extractLsb' 7 5) (w.extractLsb' 5 2) (w.extractLsb' 0 4) from
    hi.2.trans (encodeA1_of_matches hi.1)
  unfold decodeA1 at h
  dsimp only at h
  split at h
  · cases h
  · next hm =>
    split at h
    · cases h
    · refine ⟨by simp_all, ?_⟩
      rw [← ofBool_getLsbD, ← encode_a1]
      split at h <;> cases h <;> simp only [a1, *]

theorem encode_of_decodeT3 {hw1 hw2 : Half} {i : Instr} (h : decodeT3 hw1 hw2 = .ok i) : encode i = .t32 hw1 hw2 := by
  rw [← encodeT3_of_matches (matchesT3_of_decodeT3 h) hw2, ← ofBool_getLsbD, ← encode_t3]
  unfold decodeT3 at h
  dsimp only at h
  split at h
  · cases h
  · split at h
    · cases h
    · split at h
      · cases h
      · split at h <;> cases h <;> simp only [t3, *]

theorem encode_of_decodeT16 {inIT : Bool} {h : Half} {i : Instr} (hd : decodeT16 inIT h = .ok i) :
    encode i = .t16 h := by
  unfold decodeT16 at hd
  split at hd
  · next hm =>
    cases hd
    refine Eq.trans ?_ (encode_t1_of_matches hm)
    cases inIT <;> rfl
  · split at hd
    · next hm =>
      unfold decodeT2 at hd
      dsimp only at hd
      split at hd
      · cases hd
      · cases hd
        exact encode_t2_of_matches hm
    · cases hd

/-- Bits that decode are the encoding of what they decode to. -/
theorem encode_of_decodeBits {inIT : Bool} {b : InstrBits} {i : Instr} (h : decodeBits inIT b = .ok i) :
    encode i = b := by
  cases b with
  | a32 => exact encode_of_decodeA1 h
  | t16 => exact encode_of_decodeT16 h
  | t32 => exact encode_of_decodeT3 h

/-- Only T1 has an IT context, the one its halfword was decoded in (R77). -/
theorem fitsContext_of_decodeBits {inIT : Bool} {b : InstrBits} {i : Instr} (h : decodeBits inIT b = .ok i) :
    i.fitsContext inIT = true := by
  cases i with
  | addsT1 rm rn rd =>
    obtain rfl := encode_of_decodeBits h
    have := h.symm.trans (decodeBits_encodeT1 inIT rm rn rd)
    cases inIT
    · rfl
    · cases this
  | addT1 rm rn rd =>
    obtain rfl := encode_of_decodeBits h
    have := h.symm.trans (decodeBits_encodeT1 inIT rm rn rd)
    cases inIT
    · cases this
    · rfl
  | addRrxA1 | addShiftA1 | addsRrxA1 | addsShiftA1 | addT2 | addRrxT3 | addShiftT3 | addsRrxT3 | addsShiftT3 => rfl

/-- Settles O3: the fields that the decoder reads cover every bit that the layout does not fix. -/
theorem encodeOfDecode : Obligations.EncodeOfDecode := fun _ _ _ h =>
  ⟨decodeBits_wellFormed h, fitsContext_of_decodeBits h, encode_of_decodeBits h⟩

/-! ## Rejected words -/

theorem matchesA1_iff_bits {w : Word} :
    matchesA1 w = true ↔ w.extractLsb' 21 7 = 0b0000100#7 ∧ w.getLsbD 4 = false := by
  rw [matchesA1_iff, ← ofBool_getLsbD]
  cases w.getLsbD 4 <;> simp

/-- T1 and T2 differ in bit 14 (R76, R78). -/
theorem matchesT1_of_matchesT2 {h : Half} (hm : matchesT2 h = true) : matchesT1 h = false := by
  have hset : h.getLsbD 14 = true := by simpa using congrArg (BitVec.getLsbD · 6) (matchesT2_iff.mp hm)
  refine Bool.eq_false_iff.mpr fun h1 => ?_
  have hclear : h.getLsbD 14 = false := by simpa using congrArg (BitVec.getLsbD · 5) (matchesT1_iff.mp h1)
  exact Bool.false_ne_true (hclear.symm.trans hset)

/-- A destination field naming the SP in DN and Rdn (R79). -/
theorem regDnRdn_eq_sp {dn : BitVec 1} {rdn : BitVec 3} (hd : dn = 1#1) (hr : rdn = 0b101#3) :
    regDnRdn dn rdn = 13#4 := by
  subst hd hr
  rfl

theorem decodeA1_of_sp {w : Word} (hm : matchesA1 w = true) (hcond : w.extractLsb' 28 4 ≠ 15#4)
    (hn : w.extractLsb' 16 4 = 13#4) : decodeA1 w = .error .seeAddSpPlusRegister := by
  simp [decodeA1, hm, hcond, hn]

theorem decodeA1_of_other {w : Word} (h : matchesA1 w = false ∨ w.extractLsb' 28 4 = 15#4) :
    decodeA1 w = .error .notAddRegister := by
  rw [decodeA1]
  exact if_pos (by simpa using h)

theorem decodeT16_of_sp {h : Half} (hm : matchesT2 h = true) (inIT : Bool)
    (hsp : regDnRdn (h.extractLsb' 7 1) (h.extractLsb' 0 3) = 13#4 ∨ h.extractLsb' 3 4 = 13#4) :
    decodeT16 inIT h = .error .seeAddSpPlusRegister := by
  rw [decodeT16, if_neg (Bool.eq_false_iff.mp (matchesT1_of_matchesT2 hm)), if_pos hm, decodeT2]
  exact if_pos (by simpa using hsp)

theorem decodeT3_of_cmn {hw1 : Half} (hm : matchesT3 hw1 = true) (hs : hw1.getLsbD 4 = true) {hw2 : Half}
    (hd : hw2.extractLsb' 8 4 = 15#4) : decodeT3 hw1 hw2 = .error .seeCmnRegister := by
  simp only [decodeT3, hm, hs, hd]
  rfl

theorem decodeT3_of_sp {hw1 hw2 : Half} (hm : matchesT3 hw1 = true)
    (hcmn : ¬ (hw1.getLsbD 4 = true ∧ hw2.extractLsb' 8 4 = 15#4)) (hn : hw1.extractLsb' 0 4 = 13#4) :
    decodeT3 hw1 hw2 = .error .seeAddSpPlusRegister := by
  have htest : (hw2.extractLsb' 8 4 == 15#4 && hw1.getLsbD 4) = false :=
    Bool.eq_false_iff.mpr fun h => hcmn (by simpa [and_comm] using h)
  simp only [decodeT3, hm, htest, hn]
  rfl

/-- Settles O5: each redirection is a test of a word with the layout's fixed bits. -/
theorem redirectedWordsRejected : Obligations.RedirectedWordsRejected := by
  refine ⟨fun w _ hop hbit hcond hn => ?_, fun h inIT hop hsp => ?_, fun hw1 hw2 _ hop hs hd => ?_,
    fun hw1 hw2 _ hop hcmn hn => ?_⟩
  · exact decodeA1_of_sp (matchesA1_iff_bits.mpr ⟨hop, hbit⟩) hcond hn
  · refine decodeT16_of_sp (matchesT2_iff.mpr hop) inIT (hsp.imp_left fun ⟨hdn, hrdn⟩ => ?_)
    exact regDnRdn_eq_sp (by rw [← ofBool_getLsbD, hdn]; rfl) hrdn
  · exact decodeT3_of_cmn (matchesT3_iff.mpr hop) hs hd
  · exact decodeT3_of_sp (matchesT3_iff.mpr hop) hcmn hn

/-- Settles O6: the first test of each layout is of its fixed bits. -/
theorem otherWordsRejected : Obligations.OtherWordsRejected := by
  refine ⟨fun w _ h => ?_, fun h inIT h1 h2 => ?_, fun hw1 hw2 _ h3 => ?_⟩
  · refine decodeA1_of_other ?_
    rw [Bool.eq_false_iff, ne_eq, matchesA1_iff_bits]
    by_cases hop : w.extractLsb' 21 7 = 0b0000100#7
    · simpa [hop] using h
    · simp [hop]
  · exact (if_neg (mt matchesT1_iff.mp h1)).trans (if_neg (mt matchesT2_iff.mp h2))
  · exact if_pos (by simpa using mt matchesT3_iff.mp h3)

end Sys2Proof
end

section
/-! PROOFS. The shift operand: each shift in closed form, and the shift that each stype and amount field selects
(30_encoding.md R86, R87; 41_helper_functions.md R149 to R154). -/

namespace Sys2Proof.Machine
open Sys2Proof Sys2Proof.Claims

/-! ## The shifts in closed form -/

/-- R149: a shift by 0 leaves the value. -/
@[simp] theorem shift_zero (v : Word) (t : SRType) (c : Bool) : shift v t 0 c = v := rfl

/-- R150: LSL multiplies modulo 2^32. -/
theorem shift_lsl (v : Word) (k : Nat) (c : Bool) : shift v .lsl k c = BitVec.ofNat 32 (v.toNat * 2 ^ k) := by
  obtain rfl | hk := eq_or_ne k 0
  · simp
  · rw [shift, if_neg hk]
    exact BitVec.eq_of_toNat_eq (by simp [Nat.shiftLeft_eq])

/-- R151: LSR divides the unsigned value. -/
theorem shift_lsr (v : Word) (k : Nat) (c : Bool) : shift v .lsr k c = BitVec.ofNat 32 (v.toNat / 2 ^ k) := by
  obtain rfl | hk := eq_or_ne k 0
  · simp
  · rw [shift, if_neg hk, ← Nat.shiftRight_eq_div_pow, ← BitVec.toNat_ushiftRight, BitVec.ofNat_toNat,
      BitVec.setWidth_eq]

/-- R152: ASR divides the signed value, rounding down. -/
theorem shift_asr (v : Word) (k : Nat) (c : Bool) : shift v .asr k c = BitVec.ofInt 32 (v.toInt / 2 ^ k) := by
  obtain rfl | hk := eq_or_ne k 0
  · simp
  · rw [shift, if_neg hk, BitVec.sshiftRight_eq, Int.shiftRight_eq_div_pow]
    rfl

/-- R153: the two parts of a rotation have no bit in common, so their OR is their sum. -/
theorem shift_ror (v : Word) {k : Nat} (h0 : k ≠ 0) (h : k < 32) (c : Bool) :
    shift v .ror k c = BitVec.ofNat 32 (v.toNat / 2 ^ k + v.toNat * 2 ^ (32 - k)) := by
  have hdisjoint : v >>> k &&& v <<< (32 - k) = 0#32 := by
    ext i hi
    by_cases hik : i < 32 - k
    · simp [hik]
    · simp [BitVec.getLsbD_of_ge v (k + i) (by omega)]
  rw [BitVec.ofNat_add, ← shift_lsr v k c, ← shift_lsl v (32 - k) c, shift, shift, shift, if_neg h0, if_neg h0,
    if_neg (by omega), BitVec.add_eq_or_of_and_eq_zero _ _ hdisjoint, BitVec.rotateRight_def, Nat.mod_eq_of_lt h]

/-- R154: the carry and the bits below it have no place in common. -/
theorem shift_rrx (v : Word) (c : Bool) :
    shift v .rrx 1 c = BitVec.ofNat 32 (c.toNat * 2 ^ 31 + v.toNat / 2) := by
  have hcarry : field 32 31 (BitVec.ofBool c) = BitVec.ofNat 32 (c.toNat * 2 ^ 31) := by cases c <;> rfl
  have hdisjoint : field 32 31 (BitVec.ofBool c) &&& v >>> 1 = 0#32 := by
    ext i hi
    by_cases hi31 : 31 ≤ i
    · simp [BitVec.getLsbD_of_ge v (1 + i) (by omega)]
    · simp [getElem_field, hi31]
  have hbelow : v >>> 1 = BitVec.ofNat 32 (v.toNat / 2) := shift_lsr v 1 c
  rw [BitVec.ofNat_add, ← hcarry, ← hbelow, BitVec.add_eq_or_of_and_eq_zero _ _ hdisjoint]
  rfl

/-! ## The shift a word selects -/

theorem decodeImmShift_lsl (imm5 : BitVec 5) : decodeImmShift 0 imm5 = (.lsl, imm5.toNat) := rfl
theorem decodeImmShift_lsr (imm5 : BitVec 5) : decodeImmShift 1 imm5 = (.lsr, amount32 imm5) := rfl
theorem decodeImmShift_asr (imm5 : BitVec 5) : decodeImmShift 2 imm5 = (.asr, amount32 imm5) := rfl
theorem decodeImmShift_rrx : decodeImmShift 3 0 = (.rrx, 1) := rfl
theorem decodeImmShift_ror {imm5 : BitVec 5} (h : imm5 ≠ 0) : decodeImmShift 3 imm5 = (.ror, imm5.toNat) := if_neg h

/-- Settles O13: by the four values of stype, and for ROR by whether the amount field is 00000. -/
theorem immediateShiftOperand : Obligations.ImmediateShiftOperand := by
  intro stype imm5 v c
  have hstype : stype = 0 ∨ stype = 1 ∨ stype = 2 ∨ stype = 3 := by revert stype; decide
  obtain rfl | rfl | rfl | rfl := hstype
  · rw [decodeImmShift_lsl]
    exact shift_lsl v imm5.toNat c
  · rw [decodeImmShift_lsr]
    exact shift_lsr v (amount32 imm5) c
  · rw [decodeImmShift_asr]
    exact shift_asr v (amount32 imm5) c
  · by_cases h : imm5 = 0
    · subst h
      rw [decodeImmShift_rrx]
      exact shift_rrx v c
    · rw [decodeImmShift_ror h, shift_ror v (fun h0 => h (BitVec.eq_of_toNat_eq h0)) imm5.isLt c]
      exact (if_neg h).symm

end Sys2Proof.Machine
end

section
/-! PROOFS. The assembler: a line's answer is an instruction with the line's operands, and which lines have one
(30_encoding.md R87, R91 to R97; log 30). -/

namespace Sys2Proof.Machine
open Sys2Proof Sys2Proof.Claims

/-! ## The shift operand -/

/-- The range of each shift's amount, and its field, the amount modulo 32 (R87). -/
theorem shiftFields_eq_some_iff {l : AsmLine} {p : BitVec 5 × BitVec 2} :
    l.shiftFields = some p ↔ amountInRange l.shift ∧ writtenShift l.shift = p := by
  have hmod (k : Nat) : BitVec.ofNat 5 (k % 32) = BitVec.ofNat 5 k := BitVec.eq_of_toNat_eq (by simp)
  unfold AsmLine.shiftFields
  cases l.shift with
  | none => simp [amountInRange, writtenShift]
  | some sh => cases sh <;> simp [AsmShift.fields, amountInRange, writtenShift, hmod]

theorem shiftFields_of_amountInRange {l : AsmLine} (h : amountInRange l.shift) :
    l.shiftFields = some (writtenShift l.shift) := shiftFields_eq_some_iff.mpr ⟨h, rfl⟩

/-! ## A32 state -/

/-- The A1 row a line spells. -/
def lineA1 (l : AsmLine) : Instr :=
  rowA1 l.setflags l.condition l.rn l.dest (writtenShift l.shift).1 (writtenShift l.shift).2 l.rm

theorem assembleA32_ok {l : AsmLine} {i : Instr} (h : assembleA32 l = .ok i) :
    l.rn ≠ 13#4 ∧ l.width ≠ some .narrow ∧ l.condition ≠ 15#4 ∧ amountInRange l.shift ∧ i = lineA1 l := by
  unfold assembleA32 at h
  split at h
  · cases h
  · next hrn =>
    split at h
    · cases h
    · next hno =>
      obtain ⟨hwidth, hcond⟩ := not_or.mp hno
      split at h
      · cases h
      · next hs =>
        obtain ⟨hrange, hshift⟩ := shiftFields_eq_some_iff.mp hs
        cases h
        exact ⟨hrn, hwidth, hcond, hrange, by rw [lineA1, hshift]⟩

theorem assembleA32_of_fits {l : AsmLine} (hrn : l.rn ≠ 13#4) (hwidth : l.width ≠ some .narrow)
    (hcond : l.condition ≠ 15#4) (hrange : amountInRange l.shift) : assembleA32 l = .ok (lineA1 l) := by
  rw [assembleA32, if_neg hrn, if_neg (not_or.mpr ⟨hwidth, hcond⟩), shiftFields_of_amountInRange hrange]
  rfl

theorem fitsContext_of_a32 {i : Instr} (h : i.isT32 = false) (inIT : Bool) : i.fitsContext inIT = true := by
  cases i with
  | addRrxA1 | addShiftA1 | addsRrxA1 | addsShiftA1 | addT2 | addRrxT3 | addShiftT3 | addsRrxT3 | addsShiftT3 => rfl
  | addsT1 | addT1 => cases h

theorem condition_eq_nv_iff {l : AsmLine} : l.condition = 15#4 ↔ l.cond = some 15#4 := by
  unfold AsmLine.condition
  cases l.cond <;> simp

/-! ## T32 state -/

/-- The T3 row a line spells. -/
def lineT3 (l : AsmLine) : Instr :=
  rowT3 l.setflags l.rn l.dest (writtenShift l.shift).1 (writtenShift l.shift).2 l.rm

theorem assembleWide_eq_some_iff {l : AsmLine} {i : Instr} :
    assembleWide l = some i ↔
      (l.dest ≠ 15#4 ∧ l.rn ≠ 15#4 ∧ l.rm ≠ 15#4) ∧ amountInRange l.shift ∧ lineT3 l = i := by
  unfold assembleWide lineT3
  split
  · next hpc => simp only [reduceCtorEq, false_iff]; tauto
  · next hpc =>
    rw [Option.map_eq_some_iff]
    simp only [shiftFields_eq_some_iff]
    constructor
    · rintro ⟨_, ⟨hrange, rfl⟩, hi⟩
      exact ⟨by tauto, hrange, hi⟩
    · rintro ⟨-, hrange, hi⟩
      exact ⟨_, ⟨hrange, rfl⟩, hi⟩

theorem allLow_iff {l : AsmLine} : l.allLow = true ↔ lowRegisters l := decide_eq_true_iff

/-- The cases of R97 in which a line has a 16-bit encoding: T1 outside an IT block, T1 inside one, T2, and T2 with its
sources exchanged. -/
inductive NarrowForm (it : BitVec 8) (l : AsmLine) : Instr → Prop where
  | addsT1 (hs : l.setflags = true) (hit : inITBlock it = false) (hlow : lowRegisters l) :
      NarrowForm it l (t1Fields .addsT1 l)
  | addT1 (hs : l.setflags = false) (hit : inITBlock it = true) (hlow : lowRegisters l) :
      NarrowForm it l (t1Fields .addT1 l)
  | addT2 {i : Instr} (hs : l.setflags = false) (hd : l.dest = l.rn) (hi : rowT2 it l.rn l.rm = some i) :
      NarrowForm it l i
  | exchanged {i : Instr} (hs : l.setflags = false) (hit : inITBlock it = true) (hd : l.dest = l.rm)
      (hi : rowT2 it l.rm l.rn = some i) : NarrowForm it l i

theorem assembleNarrow_some {it : BitVec 8} {l : AsmLine} {i : Instr} (h : assembleNarrow it l = some i) :
    l.shift = none ∧ NarrowForm it l i := by
  unfold assembleNarrow at h
  split at h
  · cases h
  · next hshift =>
    refine ⟨by simpa using hshift, ?_⟩
    split at h
    · next hs =>
      split at h
      · next hc => cases h; exact .addsT1 hs hc.1 (allLow_iff.mp hc.2.2)
      · cases h
    · next hs =>
      rw [Bool.not_eq_true] at hs
      split at h
      · next hc => cases h; exact .addT1 hs hc.1 (allLow_iff.mp hc.2.2)
      · split at h
        · next hd => exact .addT2 hs hd h
        · split at h
          · next hc => exact .exchanged hs hc.1 hc.2 h
          · cases h

/-- What an instruction chosen for a line in T32 state is, apart from its length and condition. -/
structure SpellsLine (it : BitVec 8) (l : AsmLine) (i : Instr) : Prop where
  wellFormed : WellFormed i
  isT32 : i.isT32 = true
  predictable : isUnpredictable it i = false
  destination_eq : destination i = l.dest
  setsFlags_eq : setsFlags i = l.setflags
  operands : operandFields i = (l.rn, l.rm, writtenShift l.shift) ∨ exchanged it l i
  range : amountInRange l.shift
  condField_eq : condField i = none
  fitsContext : i.fitsContext (inITBlock it) = true

theorem lowReg_setWidth {r : RegNum} (h : r.toNat < 8) : lowReg (r.setWidth 3) = r := setWidth_setWidth_low h

/-- The sources of a T1 row, the same in both (R77). -/
theorem operandFields_t1Fields {l : AsmLine} (h : lowRegisters l) :
    operandFields (t1Fields .addT1 l) = (l.rn, l.rm, 0, 0) := by
  obtain ⟨-, hn, hm⟩ := h
  simp only [t1Fields, operandFields, setWidth_setWidth_low hn, setWidth_setWidth_low hm]

theorem NarrowForm.length {it : BitVec 8} {l : AsmLine} {i : Instr} (h : NarrowForm it l i) : lengthInBytes i = 2 := by
  cases h with
  | addsT1 | addT1 => rfl
  | addT2 _ _ hi | exchanged _ _ _ hi =>
    obtain ⟨rfl, -⟩ := rowT2_fields hi
    rfl

theorem NarrowForm.spellsLine {it : BitVec 8} {l : AsmLine} {i : Instr} (h : NarrowForm it l i) (hshift : l.shift = none)
    (hwidth : l.width ≠ some .wide) : SpellsLine it l i := by
  have hrange : amountInRange l.shift := hshift ▸ trivial
  have hwritten : writtenShift l.shift = (0, 0) := hshift ▸ rfl
  cases h with
  | addsT1 hs hit hlow =>
    exact ⟨rfl, rfl, rfl, lowReg_setWidth hlow.1, hs.symm, .inl (by rw [hwritten]; exact operandFields_t1Fields hlow),
      hrange, rfl, by rw [hit]; rfl⟩
  | addT1 hs hit hlow =>
    exact ⟨rfl, rfl, rfl, lowReg_setWidth hlow.1, hs.symm, .inl (by rw [hwritten]; exact operandFields_t1Fields hlow),
      hrange, rfl, hit⟩
  | addT2 hs hd hi =>
    obtain ⟨rfl, -, -, hwf, hun⟩ := rowT2_fields hi
    refine ⟨hwf, rfl, hun, (regDnRdn_split _).trans hd.symm, hs.symm, .inl ?_, hrange, rfl, rfl⟩
    rw [hwritten]
    simp only [operandFields, regDnRdn_split]
  | exchanged hs hit hd hi =>
    obtain ⟨rfl, -, -, hwf, hun⟩ := rowT2_fields hi
    refine ⟨hwf, rfl, hun, (regDnRdn_split _).trans hd.symm, hs.symm, .inr ?_, hrange, rfl, rfl⟩
    exact ⟨hit, hs, hwidth, hshift, hd, _, _, rfl, by simp only [operandFields, regDnRdn_split]⟩

theorem fitsContext_rowT3 (inIT sf : Bool) (rn rd : RegNum) (imm5 : BitVec 5) (stype : BitVec 2) (rm : RegNum) :
    (rowT3 sf rn rd imm5 stype rm).fitsContext inIT = true := by
  unfold rowT3
  cases sf <;> cases decide (isRrxPattern imm5 stype) <;> rfl

theorem lineT3_spellsLine (it : BitVec 8) {l : AsmLine} (hsp : l.rn ≠ 13#4)
    (hpc : l.dest ≠ 15#4 ∧ l.rn ≠ 15#4 ∧ l.rm ≠ 15#4) (hrange : amountInRange l.shift) :
    SpellsLine it l (lineT3 l) := by
  obtain ⟨hd, hn, hm⟩ := hpc
  obtain ⟨ht, hdest, hflags, hops, hcond, -, hwf, hun⟩ := rowT3_fields l.setflags l.rn l.dest (writtenShift l.shift).1
    (writtenShift l.shift).2 l.rm
  exact ⟨hwf hd hsp, ht, hun it hd hn hm, hdest, hflags, .inl hops, hrange, hcond, fitsContext_rowT3 ..⟩

theorem lengthInBytes_lineT3 (l : AsmLine) : lengthInBytes (lineT3 l) = 4 := by
  obtain ⟨-, -, -, -, -, hlen, -⟩ := rowT3_fields l.setflags l.rn l.dest (writtenShift l.shift).1
    (writtenShift l.shift).2 l.rm
  exact hlen

/-- The encoding that a line's width leaves: the 16-bit one where there is one (R92, R97). -/
def chosenT32 (it : BitVec 8) (l : AsmLine) : Option Instr :=
  match l.width with
  | some .narrow => assembleNarrow it l
  | some .wide => assembleWide l
  | none => (assembleNarrow it l).or (assembleWide l)

theorem assembleT32_of_sp (it : BitVec 8) {l : AsmLine} (hsp : l.rn = 13#4) :
    assembleT32 it l = .error .seeAddSpPlusRegister := if_pos hsp

theorem assembleT32_of_disagrees {it : BitVec 8} {l : AsmLine} (hsp : l.rn ≠ 13#4) (h : ¬ conditionAgrees it l) :
    assembleT32 it l = .error .noEncoding := (if_neg hsp).trans (if_pos h)

theorem assembleT32_of_agrees {it : BitVec 8} {l : AsmLine} (hsp : l.rn ≠ 13#4) (h : conditionAgrees it l) :
    assembleT32 it l = match chosenT32 it l with
      | none => .error .noEncoding
      | some i => .ok i := (if_neg hsp).trans (if_neg (not_not.mpr h))

theorem assembleT32_of_chosen {it : BitVec 8} {l : AsmLine} {i : Instr} (hsp : l.rn ≠ 13#4)
    (hagrees : conditionAgrees it l) (h : chosenT32 it l = some i) : assembleT32 it l = .ok i := by
  rw [assembleT32_of_agrees hsp hagrees, h]

theorem assembleT32_ok {it : BitVec 8} {l : AsmLine} {i : Instr} (h : assembleT32 it l = .ok i) :
    l.rn ≠ 13#4 ∧ conditionAgrees it l ∧ chosenT32 it l = some i := by
  by_cases hsp : l.rn = 13#4
  · cases (assembleT32_of_sp it hsp).symm.trans h
  · by_cases hagrees : conditionAgrees it l
    · rw [assembleT32_of_agrees hsp hagrees] at h
      split at h
      · cases h
      · next hi => cases h; exact ⟨hsp, hagrees, hi⟩
    · cases (assembleT32_of_disagrees hsp hagrees).symm.trans h

theorem chosenT32_some {it : BitVec 8} {l : AsmLine} {i : Instr} (h : chosenT32 it l = some i) :
    (l.width ≠ some .wide ∧ assembleNarrow it l = some i) ∨ (l.width ≠ some .narrow ∧ assembleWide l = some i) := by
  unfold chosenT32 at h
  split at h
  · next hw => exact .inl ⟨by simp [hw], h⟩
  · next hw => exact .inr ⟨by simp [hw], h⟩
  · next hw =>
    rw [Option.or_eq_some_iff] at h
    exact h.imp (⟨by simp [hw], ·⟩) (⟨by simp [hw], ·.2⟩)

/-- The 16-bit encoding is preferred (R97). -/
theorem chosenT32_of_narrow {it : BitVec 8} {l : AsmLine} {i : Instr} (hwidth : l.width ≠ some .wide)
    (h : assembleNarrow it l = some i) : chosenT32 it l = some i := by
  unfold chosenT32
  split
  · exact h
  · next hw => exact absurd hw hwidth
  · rw [h]; rfl

theorem exists_chosenT32_of_wide (it : BitVec 8) {l : AsmLine} {i : Instr} (hwidth : l.width ≠ some .narrow)
    (h : assembleWide l = some i) : ∃ j, chosenT32 it l = some j := by
  unfold chosenT32
  split
  · next hw => exact absurd hw hwidth
  · exact ⟨i, h⟩
  · rw [h]
    cases assembleNarrow it l with
    | none => exact ⟨i, rfl⟩
    | some j => exact ⟨j, rfl⟩

/-! ## The lines with a 16-bit encoding -/

theorem assembleNarrow_addsT1 {it : BitVec 8} {l : AsmLine} (hshift : l.shift = none) (hs : l.setflags = true)
    (hit : inITBlock it = false) (hcond : l.cond = none) (hlow : lowRegisters l) :
    assembleNarrow it l = some (t1Fields .addsT1 l) := by
  rw [assembleNarrow, hshift, if_neg (by decide), if_pos hs, if_pos ⟨hit, hcond, allLow_iff.mpr hlow⟩]
  rfl

theorem assembleNarrow_addT1 {it : BitVec 8} {l : AsmLine} (hshift : l.shift = none) (hs : l.setflags = false)
    (hit : inITBlock it = true) (hrd : l.rd.isSome = true) (hlow : lowRegisters l) :
    assembleNarrow it l = some (t1Fields .addT1 l) := by
  rw [assembleNarrow, hshift, if_neg (by decide), hs, if_neg (by decide), if_pos ⟨hit, hrd, allLow_iff.mpr hlow⟩]
  rfl

theorem rowT2_of_allowed {it : BitVec 8} {rdn rm : RegNum} (h : t2Allows it rdn rm) :
    rowT2 it rdn rm = some (t2 rdn rm) := by
  obtain ⟨hd, hm, hpc⟩ := h
  refine if_neg ?_
  rintro (h | h | ⟨h15, h | ⟨hin, hlast⟩⟩)
  · exact hd h
  · exact hm h
  · exact (hpc h15).1 h
  · exact Bool.false_ne_true (hlast.symm.trans ((hpc h15).2 hin))

/-- An ADD that T1 does not take is T2 where its destination is the first source or, inside an IT block, the second. -/
theorem assembleNarrow_t2 {it : BitVec 8} {l : AsmLine} (hshift : l.shift = none) (hs : l.setflags = false)
    (ht1 : ¬ (inITBlock it = true ∧ l.rd.isSome = true ∧ lowRegisters l)) :
    assembleNarrow it l =
      if l.dest = l.rn then rowT2 it l.rn l.rm
      else if inITBlock it = true ∧ l.dest = l.rm then rowT2 it l.rm l.rn
      else none := by
  rw [← allLow_iff] at ht1
  rw [assembleNarrow, hshift, if_neg (by decide), hs, if_neg (by decide), if_neg ht1]

/-! ## The claim's parts -/

/-- What assembles in A32 state is the line's own A1 row. -/
theorem lineA1_spells {l : AsmLine} (hrn : l.rn ≠ 13#4) (hcond : l.condition ≠ 15#4) :
    WellFormed (lineA1 l) ∧ (lineA1 l).isT32 = false ∧ destination (lineA1 l) = l.dest ∧
      setsFlags (lineA1 l) = l.setflags ∧ operandFields (lineA1 l) = (l.rn, l.rm, writtenShift l.shift) ∧
      condField (lineA1 l) = some l.condition := by
  obtain ⟨ht, hd, hs, hops, hc, hwf⟩ := rowA1_fields l.setflags l.condition l.rn l.dest (writtenShift l.shift).1
    (writtenShift l.shift).2 l.rm
  exact ⟨hwf hcond hrn, ht, hd, hs, hops, hc⟩

/-- What assembles in T32 state spells the line, in the width it asks for. -/
theorem assembleT32_spellsLine {it : BitVec 8} {l : AsmLine} {i : Instr} (h : assembleT32 it l = .ok i) :
    SpellsLine it l i ∧ (l.width = some .narrow → lengthInBytes i = 2) ∧ (l.width = some .wide → lengthInBytes i = 4) := by
  obtain ⟨hsp, -, hi⟩ := assembleT32_ok h
  rcases chosenT32_some hi with ⟨hwidth, hn⟩ | ⟨hwidth, hw⟩
  · obtain ⟨hshift, hform⟩ := assembleNarrow_some hn
    exact ⟨hform.spellsLine hshift hwidth, fun _ => hform.length, fun h => absurd h hwidth⟩
  · obtain ⟨hpc, hrange, rfl⟩ := assembleWide_eq_some_iff.mp hw
    exact ⟨lineT3_spellsLine it hsp hpc hrange, fun h => absurd h hwidth, fun _ => lengthInBytes_lineT3 l⟩

/-- Settles O60: by instruction set; in T32 state by the 16-bit encodings of R97, and T3 for the rest. -/
theorem assembledLineIsItsInstruction : Obligations.AssembledLineIsItsInstruction := by
  refine ⟨fun l i h => ?_, fun l hrn hwidth hcond hrange => ?_, fun it l i h => ?_, fun it l hagrees hrn => ?_⟩
  · obtain ⟨hrn, hwidth, hcond, hrange, rfl⟩ := assembleA32_ok h
    obtain ⟨hwf, ht, hd, hs, hops, hc⟩ := lineA1_spells hrn hcond
    exact ⟨hwf, ht, hd, hs, hops, hrange, hc, hwidth, decodeBits_encode hwf (fitsContext_of_a32 ht false)⟩
  · exact ⟨_, assembleA32_of_fits hrn hwidth (mt condition_eq_nv_iff.mp hcond) hrange⟩
  · obtain ⟨hi, h2, h4⟩ := assembleT32_spellsLine h
    obtain ⟨-, hagrees, -⟩ := assembleT32_ok h
    exact ⟨hi.wellFormed, hi.isT32, hi.predictable, hi.destination_eq, hi.setsFlags_eq, hi.operands, hi.range,
      hi.condField_eq, hagrees, h2, h4, decodeBits_encode hi.wellFormed hi.fitsContext⟩
  · have of_narrow {i : Instr} (hform : narrowForm l) (h : assembleNarrow it l = some i) : assembleT32 it l = .ok i :=
      assembleT32_of_chosen hrn hagrees (chosenT32_of_narrow hform.2 h)
    refine ⟨fun hwidth hd hn hm hrange => ?_, fun hform hlow hs hit hcond => ?_, fun hform hs =>
      ⟨fun hit hrd hlow => ?_, fun ht1 => ⟨fun hd hallows => ?_, fun hd hit hdm hallows => ?_⟩⟩⟩
    · obtain ⟨j, hj⟩ := exists_chosenT32_of_wide it hwidth (assembleWide_eq_some_iff.mpr ⟨⟨hd, hn, hm⟩, hrange, rfl⟩)
      exact ⟨j, assembleT32_of_chosen hrn hagrees hj⟩
    · exact of_narrow hform (assembleNarrow_addsT1 hform.1 hs hit hcond hlow)
    · exact of_narrow hform (assembleNarrow_addT1 hform.1 hs hit hrd hlow)
    · refine of_narrow hform ?_
      rw [assembleNarrow_t2 hform.1 hs ht1, if_pos hd, rowT2_of_allowed hallows]
    · refine of_narrow hform ?_
      rw [assembleNarrow_t2 hform.1 hs ht1, if_neg hd, if_pos ⟨hit, hdm⟩, rowT2_of_allowed hallows]

end Sys2Proof.Machine
end

section
/-! PROOFS. The sum with its flags in closed form, and what the Operation makes of the state where its sources, its
condition and its destination are known (40_add_adds_register.md R110 to R113, R116; 41_helper_functions.md R142,
R146, R156 to R158, R163). -/

namespace Sys2Proof.Machine
open Sys2Proof Sys2Proof.Claims

/-! ## The sum -/

/-- The unsigned sum is the narrowed one unless it needs a 33rd bit. -/
theorem toNat_add_ne_iff (x y : Word) : (x + y).toNat ≠ x.toNat + y.toNat ↔ 2 ^ 32 ≤ x.toNat + y.toNat := by
  rw [BitVec.toNat_add, Ne, Nat.mod_eq_iff_lt (by decide), Nat.not_lt]

/-- The signed sum is the narrowed one if 32 bits hold it. -/
theorem toInt_add_ne_iff (x y : Word) :
    (x + y).toInt ≠ x.toInt + y.toInt ↔ x.toInt + y.toInt < -2 ^ 31 ∨ 2 ^ 31 ≤ x.toInt + y.toInt := by
  rw [BitVec.toInt_add, Ne, Int.bmod_eq_iff (by decide), Int.sub_self]
  have : ((2 ^ 32 : ℕ) : ℤ) ∣ 0 := Int.dvd_zero _
  omega

/-- R111: N, Z, C and V are the sign, zero, unsigned overflow and signed overflow of the sum. -/
theorem addWithCarry_eq (x y : Word) :
    addWithCarry x y false =
      (x + y,
        { n := (x + y).getLsbD 31
          z := decide (x + y = 0)
          c := decide (2 ^ 32 ≤ x.toNat + y.toNat)
          v := decide (x.toInt + y.toInt < -2 ^ 31 ∨ 2 ^ 31 ≤ x.toInt + y.toInt) }) := by
  have hc : ((x + y).toNat != x.toNat + y.toNat) = decide (2 ^ 32 ≤ x.toNat + y.toNat) :=
    Bool.eq_iff_iff.mpr (by rw [bne_iff_ne, decide_eq_true_iff, toNat_add_ne_iff])
  have hv : ((x + y).toInt != x.toInt + y.toInt) =
      decide (x.toInt + y.toInt < -2 ^ 31 ∨ 2 ^ 31 ≤ x.toInt + y.toInt) :=
    Bool.eq_iff_iff.mpr (by rw [bne_iff_ne, decide_eq_true_iff, toInt_add_ne_iff])
  simp only [addWithCarry, Bool.toNat_false, Nat.add_zero, Int.natCast_zero, Int.add_zero, BitVec.ofNat_add,
    BitVec.ofNat_toNat, BitVec.setWidth_eq, hc, hv, BitVec.msb_eq_getLsbD_last, beq_eq_decide]

theorem withNzcv_addWithCarry (x y : Word) (p : Pstate) :
    p.withNzcv (addWithCarry x y false).2 = withSumFlags x y p := by
  rw [addWithCarry_eq]
  rfl

/-! ## The IT state after an instruction -/

theorem nextIT_zero : nextIT 0 = 0 := rfl

theorem itAdvance_eq_nextIT (it : BitVec 8) : itAdvance it = nextIT it := by
  revert it; decide

/-- In A32 state there is no IT state to advance (R163). -/
theorem Pstate.itAdvanced_of_a32 {p : Pstate} (ht : p.t = false) : p.itAdvanced = p := by
  simp [Pstate.itAdvanced, ht]

/-- In T32 state a legal IT state advances, zero to zero (R146, R163). -/
theorem Pstate.itAdvanced_of_t32 {p : Pstate} (ht : p.t = true) (hit : p.it = 0 ∨ inITBlock p.it = true) :
    p.itAdvanced = { p with it := nextIT p.it } := by
  rw [Pstate.itAdvanced_eq, Pstate.itAdvanced_it, ht]
  rcases hit with h0 | hin
  · rw [h0, nextIT_zero]; rfl
  · rw [hin, itAdvance_eq_nextIT]; rfl

theorem advance_of_a32 {s : State} (ht : s.pstate.t = false) (len : Word) :
    advance len s = { s with pc := s.pc + len } := by
  rw [advance, Pstate.itAdvanced_of_a32 ht]

theorem advance_of_t32 {s : State} (ht : s.pstate.t = true) (hit : s.pstate.it = 0 ∨ inITBlock s.pstate.it = true)
    (len : Word) : advance len s = skippedT32 s len := by
  rw [advance, Pstate.itAdvanced_of_t32 ht hit, skippedT32]

/-! ## Branches -/

theorem branchTo_of_a32 {s : State} (ht : s.pstate.t = false) (a : Word) : branchTo a s = bxWritePC a s := by
  simp [branchTo, aluWritePC, Pstate.itAdvanced_of_a32 ht, ht]

/-- R157: the interworking branch out of A32 state, by bits 0 and 1 of the target. -/
theorem bxWritePC_of_a32 {s : State} (ht : s.pstate.t = false) (a : Word) :
    bxWritePC a s =
      if a.getLsbD 0 then { s with pc := a &&& 0xFFFFFFFE#32, pstate := { s.pstate with t := true } }
      else if a.getLsbD 1 then { s with pc := if Config.a32ForceAlignPc then a &&& 0xFFFFFFFC#32 else a }
      else { s with pc := a } := by
  have hp : { s.pstate with t := false } = s.pstate := by rw [← ht]
  unfold bxWritePC
  rw [hp]
  cases a.getLsbD 1 <;> rfl

/-- R158: the simple branch of T32 state, after which the IT state has advanced. -/
theorem branchTo_of_t32 {s : State} (ht : s.pstate.t = true) (hit : s.pstate.it = 0 ∨ inITBlock s.pstate.it = true)
    (a : Word) : branchTo a s = branchedT32 s a := by
  simp [branchTo, aluWritePC, branchWritePC, branchedT32, alignHalf, Pstate.itAdvanced_of_t32 ht hit, ht]

/-! ## The shift operand -/

theorem operand_false (stype : BitVec 2) (imm5 : BitVec 5) (v : Word) (c : Bool) :
    operand false stype imm5 v c = shifted stype imm5 v c := if_neg Bool.false_ne_true

theorem operand_true (stype : BitVec 2) (imm5 : BitVec 5) (v : Word) (c : Bool) :
    operand true stype imm5 v c = shifted 3 0 v c := if_pos rfl

/-- A rotate right with extend is the shift by stype 11 and amount 00000 (R73, R83). -/
theorem operand_eq_shifted (rrx : Bool) (stype : BitVec 2) (imm5 : BitVec 5) (v : Word) (c : Bool) :
    operand rrx stype imm5 v c = shifted (if rrx then 3 else stype) (if rrx then 0 else imm5) v c := by
  cases rrx
  · exact operand_false stype imm5 v c
  · exact operand_true stype imm5 v c

theorem operand_lsl (imm5 : BitVec 5) (v : Word) (c : Bool) :
    operand false 0 imm5 v c = BitVec.ofNat 32 (v.toNat * 2 ^ imm5.toNat) :=
  (operand_false 0 imm5 v c).trans (if_pos rfl)

theorem operand_lsl_zero (v : Word) (c : Bool) : operand false 0 0 v c = v := by
  rw [operand_lsl]
  simp

theorem operand_lsl_one (v : Word) (c : Bool) : operand false 0 1 v c = v + v := by
  rw [operand_lsl]
  exact BitVec.eq_of_toNat_eq (by simp [Nat.mul_two])

/-! ## The Operation -/

/-- The first source's value (R110). -/
def AddForm.firstSource (f : AddForm) (s : State) : Word := s.readReg f.n

/-- The second source's value, shifted with the C flag of the state before the instruction (R110). -/
def AddForm.secondSource (f : AddForm) (s : State) : Word :=
  shift (s.readReg f.m) f.shiftT f.shiftN s.pstate.c

/-- PSTATE after an ADD or, with the flags of the sum, an ADDS (R116). -/
def AddForm.flagged (f : AddForm) (s : State) (p : Pstate) : Pstate :=
  if f.setflags then withSumFlags (f.firstSource s) (f.secondSource s) p else p

theorem operate_eq (f : AddForm) (s : State) :
    operate f s = finish f (addWithCarry (f.firstSource s) (f.secondSource s) false) s := rfl

/-- R110: the sum goes to a destination that is not the PC. -/
theorem operate_of_ne_pc {f : AddForm} (hd : f.d ≠ 15#4) (s : State) :
    operate f s =
      .next (written s f.d (f.firstSource s + f.secondSource s) f.len (f.flagged s s.pstate.itAdvanced)) := by
  rw [operate_eq, finish, if_neg hd, writeResult_eq, withNzcv_addWithCarry, addWithCarry_eq]
  rfl

/-- R113: ADD with the PC as its destination branches to the sum. -/
theorem operate_of_pc {f : AddForm} (hd : f.d = 15#4) (hs : f.setflags = false) (s : State) :
    operate f s = .next (branchTo (f.firstSource s + f.secondSource s) s) := by
  rw [operate_eq, finish, if_pos hd, hs, addWithCarry_eq]
  rfl

/-! ## The condition -/

theorem runA1_of_passes {cond : RegNum} {s : State} (hc : conditionHolds cond s.pstate = true) (f : AddForm) :
    runA1 cond f s = operate f s := by
  simp [runA1, withCondition, guarded, hc]

theorem runA1_of_fails {cond : RegNum} {s : State} (hc : conditionHolds cond s.pstate = false) (f : AddForm) :
    runA1 cond f s = .next (advance f.len s) := by
  simp [runA1, withCondition, guarded, hc]

/-- An instruction that executes does so in a legal IT state. -/
theorem passesT32_legal {p : Pstate} (h : passesT32 p) : p.it = 0 ∨ inITBlock p.it = true :=
  h.imp_right And.left

theorem conditionalT32_of_legal {s : State} (hit : s.pstate.it = 0 ∨ inITBlock s.pstate.it = true) (len : Word)
    (body : State → Result) :
    conditionalT32 len body s =
      guarded (conditionHolds (if inITBlock s.pstate.it then s.pstate.it.extractLsb' 4 4 else 14) s.pstate) len body
        s := by
  rw [conditionalT32, currentCondT32_of_legal hit]
  rfl

theorem conditionalT32_of_passes {s : State} (hc : passesT32 s.pstate) (len : Word) (body : State → Result) :
    conditionalT32 len body s = body s := by
  rw [conditionalT32_of_legal (passesT32_legal hc)]
  rcases hc with h0 | ⟨hin, hc⟩
  · rw [h0]; rfl
  · rw [hin, if_pos rfl, hc]; rfl

theorem conditionalT32_of_fails {s : State} (hc : failsT32 s.pstate) (len : Word) (body : State → Result) :
    conditionalT32 len body s = .next (advance len s) := by
  obtain ⟨hin, hc⟩ := hc
  rw [conditionalT32_of_legal (.inr hin), hin, if_pos rfl, hc]
  rfl

end Sys2Proof.Machine
end

section
/-! PROOFS. Encoding A1: the sum, the branch and the skipped instruction (40_add_adds_register.md R110 to R116, R120 to
R123; logs 17, 32). -/

namespace Sys2Proof.Machine
open Sys2Proof Sys2Proof.Claims

/-- The four rows as one form: a rotate right with extend is the shift by stype 11 and amount 00000 (R73). -/
theorem exec_a1 (setflags rrx : Bool) (cond rn rd : RegNum) (imm5 : BitVec 5) (stype : BitVec 2) (rm : RegNum)
    (s : State) :
    exec (a1 setflags rrx cond rn rd imm5 stype rm) s =
      runA1 cond (formA1 setflags rn rd (if rrx then 0 else imm5) (if rrx then 3 else stype) rm) s := by
  cases setflags <;> cases rrx <;> rfl

theorem firstSource_formA1 (setflags : Bool) (rn rd : RegNum) (imm5 : BitVec 5) (stype : BitVec 2) (rm : RegNum)
    (s : State) : (formA1 setflags rn rd imm5 stype rm).firstSource s = s.readReg rn := rfl

theorem secondSource_formA1 (setflags rrx : Bool) (rn rd : RegNum) (imm5 : BitVec 5) (stype : BitVec 2) (rm : RegNum)
    (s : State) :
    (formA1 setflags rn rd (if rrx then 0 else imm5) (if rrx then 3 else stype) rm).secondSource s =
      operand rrx stype imm5 (s.readReg rm) s.pstate.c := by
  rw [operand_eq_shifted]
  exact immediateShiftOperand _ _ _ _

/-- A1 whose condition passes, with a destination other than the PC. -/
theorem exec_a1_writes {cond rd : RegNum} {s : State} (ht : s.pstate.t = false)
    (hc : conditionHolds cond s.pstate = true) (hd : rd ≠ 15#4) (setflags rrx : Bool) (rn : RegNum) (imm5 : BitVec 5)
    (stype : BitVec 2) (rm : RegNum) :
    exec (a1 setflags rrx cond rn rd imm5 stype rm) s =
      (let x := s.readReg rn
       let y := operand rrx stype imm5 (s.readReg rm) s.pstate.c
       .next (written s rd (x + y) 4 (if setflags then withSumFlags x y s.pstate else s.pstate))) := by
  rw [exec_a1, runA1_of_passes hc, operate_of_ne_pc hd, Pstate.itAdvanced_of_a32 ht, AddForm.flagged,
    secondSource_formA1]
  rfl

/-- Settles O15: the sum of the two sources, with no flag. -/
theorem addA1WritesSum : Obligations.AddA1WritesSum := fun rrx _ rn _ rm imm5 stype _ ht hc hd =>
  exec_a1_writes ht hc hd false rrx rn imm5 stype rm

/-- Settles O16: the same with the flags of the sum. -/
theorem addsA1WritesSumAndFlags : Obligations.AddsA1WritesSumAndFlags := fun rrx _ rn _ rm imm5 stype _ ht hc hd =>
  exec_a1_writes ht hc hd true rrx rn imm5 stype rm

/-- Settles O17: the condition is looked at before anything else, and in A32 state only the pc advances. -/
theorem failedConditionSkipsA1 : Obligations.FailedConditionSkipsA1 := by
  intro sbit rrx cond rn rd rm imm5 stype s ht hc
  rw [exec_a1, runA1_of_fails hc, advance_of_a32 ht]
  rfl

/-- Settles O18: in A32 state ALUWritePC is the interworking branch. -/
theorem addA1ToPcBranches : Obligations.AddA1ToPcBranches := by
  intro rrx cond rn rm imm5 stype s ht hc
  rw [exec_a1, runA1_of_passes hc, operate_of_pc rfl rfl, branchTo_of_a32 ht, bxWritePC_of_a32 ht,
    firstSource_formA1, secondSource_formA1]
  dsimp only
  split_ifs <;> rfl

/-- Settles O39: every source is read from the state before the write. -/
theorem sameRegisterOperands : Obligations.SameRegisterOperands := by
  intro r s ht hr
  have hal : conditionHolds 14 s.pstate = true := rfl
  refine ⟨?_, ?_, ?_⟩
  · have h := exec_a1_writes ht hal hr false false r 0 0 r
    rw [operand_lsl_zero] at h
    exact h
  · have h := exec_a1_writes ht hal hr false false r 1 0 r
    rw [operand_lsl_one] at h
    rw [BitVec.add_assoc]
    exact h
  · have h := exec_a1_writes ht hal hr true true r 0 3 r
    rw [operand_true] at h
    exact h

end Sys2Proof.Machine
end

section
/-! PROOFS. Encodings T1, T2 and T3 where they are not UNPREDICTABLE: the sum, the branch and the skipped instruction
(40_add_adds_register.md R110 to R116, R124 to R130; 41_helper_functions.md R142, R146, R147, R163). -/

namespace Sys2Proof.Machine
open Sys2Proof Sys2Proof.Claims

/-- A T32 instruction that executes, with a destination other than the PC. -/
theorem conditionalT32_writes {f : AddForm} {s : State} (ht : s.pstate.t = true) (hc : passesT32 s.pstate)
    (hd : f.d ≠ 15#4) :
    conditionalT32 f.len (operate f) s =
      .next (written s f.d (f.firstSource s + f.secondSource s) f.len
        { f.flagged s s.pstate with it := nextIT s.pstate.it }) := by
  rw [conditionalT32_of_passes hc, operate_of_ne_pc hd, Pstate.itAdvanced_of_t32 ht (passesT32_legal hc)]
  unfold AddForm.flagged
  cases f.setflags <;> rfl

/-! ## Encoding T1 -/

/-- T1 names R0 to R7 only. -/
theorem lowReg_ne_pc (r : BitVec 3) : lowReg r ≠ 15#4 := by
  revert r; decide

/-- Settles O25: outside an IT block the condition is AL and the IT state stays zero. -/
theorem addsT1WritesSumAndFlags : Obligations.AddsT1WritesSumAndFlags := by
  intro rm rn rd s ht h0
  have hit : nextIT s.pstate.it = s.pstate.it := by rw [h0, nextIT_zero]
  refine (conditionalT32_writes ht (.inl h0) (lowReg_ne_pc rd)).trans ?_
  rw [hit]
  rfl

/-- Settles O26: T1 shifts by nothing. -/
theorem addT1WritesSum : Obligations.AddT1WritesSum := fun _ _ rd _ ht hc =>
  conditionalT32_writes ht hc (lowReg_ne_pc rd)

/-! ## Encoding T2 -/

/-- R80's cases aside, T2 is the Operation under the condition of the IT state. -/
theorem execAddT2_of_predictable {dn : BitVec 1} {rm : RegNum} {rdn : BitVec 3} {s : State}
    (h : isUnpredictable s.pstate.it (.addT2 dn rm rdn) = false) :
    execAddT2 dn rm rdn s = conditionalT32 2 (operate (formT2 dn rm rdn)) s := by
  have hpc : ¬ (regDnRdn dn rdn = 15#4 ∧ rm = 15#4) := fun ⟨hd, hm⟩ => by simp [isUnpredictable, hd, hm] at h
  have hit : ¬ (regDnRdn dn rdn = 15#4 ∧ inITBlock s.pstate.it = true ∧ ¬ lastInITBlock s.pstate.it = true) :=
    fun ⟨hd, hin, hlast⟩ => by simp [isUnpredictable, hd, hin, hlast] at h
  rw [execAddT2, if_neg hpc, if_neg hit]
  rfl

/-- R147: the PC reads 4 ahead in T32 state. -/
theorem readReg_pc_of_t32 {s : State} (ht : s.pstate.t = true) : s.readReg 15#4 = s.pc + 4 := by
  refine s.readReg_pc.trans ?_
  rw [ht]
  rfl

/-- Settles O28: the PC as Rm reads 4 ahead in T32 state. -/
theorem addT2WritesSum : Obligations.AddT2WritesSum := by
  intro dn rm rdn s ht hc hd
  have hm : (if rm = 15#4 then s.pc + 4 else s.readReg rm) = s.readReg rm := by
    split
    · next h => rw [h, readReg_pc_of_t32 ht]
    · rfl
  rw [hm]
  exact (execAddT2_of_predictable (by simp [isUnpredictable, hd])).trans (conditionalT32_writes ht hc hd)

/-- Settles O29: the first source is the destination, the PC, and the branch stays in T32 state. -/
theorem addT2ToPcBranches : Obligations.AddT2ToPcBranches := by
  intro rm s ht hc hm hlast
  have hd : regDnRdn 1 7 = 15#4 := rfl
  have hu : isUnpredictable s.pstate.it (.addT2 1 rm 7) = false := by
    rcases hlast with h | h <;> simp [isUnpredictable, hm, h, inITBlock]
  rw [← readReg_pc_of_t32 ht, ← branchTo_of_t32 ht (passesT32_legal hc)]
  refine (execAddT2_of_predictable hu).trans ?_
  rw [conditionalT32_of_passes hc, operate_of_pc hd rfl]
  rfl

/-! ## Encoding T3 -/

/-- The cases of R82 and R85 aside, T3 is the Operation under the condition of the IT state. -/
theorem runT3_of_predictable {sbz : BitVec 1} {f : AddForm} (h : unpredictableT3 sbz f.n f.d f.m = false) (s : State) :
    runT3 sbz f s = conditionalT32 f.len (operate f) s := by
  obtain ⟨hsbz, hd, hn, hm⟩ : sbz ≠ 1#1 ∧ f.d ≠ 15#4 ∧ f.n ≠ 15#4 ∧ f.m ≠ 15#4 := by
    simpa [unpredictableT3, and_assoc] using h
  rw [runT3, if_neg hsbz, checkedT3, if_neg (hd ·.1), if_neg hn, if_neg hm]

/-- The four rows as one form: a rotate right with extend is the shift by stype 11 and amount 000:00 (R83). -/
theorem exec_t3 (setflags rrx : Bool) (sbz : BitVec 1) (rn : RegNum) (imm3 : BitVec 3) (rd : RegNum)
    (imm2 stype : BitVec 2) (rm : RegNum) (s : State) :
    exec (t3 setflags rrx sbz rn imm3 rd imm2 stype rm) s =
      runT3 sbz
        (formT3 setflags rn (if rrx then 0 else imm3) rd (if rrx then 0 else imm2) (if rrx then 3 else stype) rm)
        s := by
  cases setflags <;> cases rrx <;> rfl

theorem secondSource_formT3 (setflags rrx : Bool) (rn : RegNum) (imm3 : BitVec 3) (rd : RegNum)
    (imm2 stype : BitVec 2) (rm : RegNum) (s : State) :
    (formT3 setflags rn (if rrx then 0 else imm3) rd (if rrx then 0 else imm2) (if rrx then 3 else stype)
      rm).secondSource s = operand rrx stype (amountField imm3 imm2) (s.readReg rm) s.pstate.c := by
  have hamount : amountField (if rrx then 0 else imm3) (if rrx then 0 else imm2) =
      if rrx then 0 else amountField imm3 imm2 := by
    cases rrx
    · rfl
    · simp only [if_true]
      decide
  rw [operand_eq_shifted, ← hamount]
  exact immediateShiftOperand _ _ _ _

/-- T3 that executes, with no PC operand and the (0) bit 0. -/
theorem exec_t3_writes {rn rd rm : RegNum} {s : State} (ht : s.pstate.t = true) (hc : passesT32 s.pstate)
    (hd : rd ≠ 15#4) (hn : rn ≠ 15#4) (hm : rm ≠ 15#4) (setflags rrx : Bool) (imm3 : BitVec 3)
    (imm2 stype : BitVec 2) :
    exec (t3 setflags rrx 0 rn imm3 rd imm2 stype rm) s =
      (let x := s.readReg rn
       let y := operand rrx stype (amountField imm3 imm2) (s.readReg rm) s.pstate.c
       .next (written s rd (x + y) 4
         { (if setflags then withSumFlags x y s.pstate else s.pstate) with it := nextIT s.pstate.it })) := by
  have hu : unpredictableT3 0 rn rd rm = false := by simp [unpredictableT3, hd, hn, hm]
  rw [exec_t3, runT3_of_predictable hu, conditionalT32_writes ht hc hd, AddForm.flagged, secondSource_formT3]
  rfl

/-- Settles O32: the sum of the two sources, with no flag. -/
theorem addT3WritesSum : Obligations.AddT3WritesSum := fun rrx _ _ _ imm3 imm2 stype _ ht hc hd hn hm =>
  exec_t3_writes ht hc hd hn hm false rrx imm3 imm2 stype

/-- Settles O33: the same with the flags of the sum. -/
theorem addsT3WritesSumAndFlags : Obligations.AddsT3WritesSumAndFlags :=
  fun rrx _ _ _ imm3 imm2 stype _ ht hc hd hn hm => exec_t3_writes ht hc hd hn hm true rrx imm3 imm2 stype

/-! ## The skipped instruction -/

/-- Every T32 instruction that is not UNPREDICTABLE is the Operation under the condition of the IT state. -/
theorem exec_of_predictable {i : Instr} {s : State} (ht : i.isT32 = true)
    (hu : isUnpredictable s.pstate.it i = false) :
    ∃ f : AddForm, f.len = lengthInBytes i ∧ exec i s = conditionalT32 f.len (operate f) s := by
  cases i with
  | addRrxA1 | addShiftA1 | addsRrxA1 | addsShiftA1 => cases ht
  | addsT1 | addT1 => exact ⟨_, rfl, rfl⟩
  | addT2 => exact ⟨_, rfl, execAddT2_of_predictable hu⟩
  | addRrxT3 | addShiftT3 | addsRrxT3 | addsShiftT3 =>
    refine ⟨_, ?_, runT3_of_predictable ?_ s⟩
    · rfl
    · exact hu

/-- Settles O37: an instruction that is not UNPREDICTABLE is skipped by its condition check. -/
theorem failedConditionSkipsT32 : Obligations.FailedConditionSkipsT32 := by
  intro i s hi ht hc hu
  obtain ⟨f, hlen, hexec⟩ := exec_of_predictable hi hu
  rw [hexec, conditionalT32_of_fails hc, advance_of_t32 ht (.inr hc.1), hlen]

end Sys2Proof.Machine
end

section
/-! PROOFS. The helper functions in the rules' formulas: the sum with its flags and the five shifts (40_add_adds_register.md
R111; 41_helper_functions.md R150 to R155). -/

namespace Sys2Proof.Machine
open Sys2Proof Sys2Proof.Claims

/-! ## The sum -/

/-- R111: the signed sum leaves 32 bits where the sources' signs agree and the sum's does not. -/
theorem signedOverflow_iff_signs (x y : Word) :
    (x.toInt + y.toInt < -2 ^ 31 ∨ 2 ^ 31 ≤ x.toInt + y.toInt) ↔
      x.getLsbD 31 = y.getLsbD 31 ∧ (x + y).getLsbD 31 ≠ x.getLsbD 31 := by
  have h : x.saddOverflow y = true ↔ x.msb = y.msb ∧ (x + y).msb ≠ x.msb := by simp [BitVec.saddOverflow_eq]
  simp only [BitVec.msb_eq_getLsbD_last] at h
  rw [← h, BitVec.saddOverflow, Bool.or_eq_true, decide_eq_true_iff, decide_eq_true_iff, or_comm]

/-- Settles O7: the sum of two words, with each flag in its closed form. -/
theorem sumAndFlagsClosedForm : Obligations.SumAndFlagsClosedForm := by
  intro x y
  rw [addWithCarry_eq]
  refine ⟨BitVec.toNat_add x y, rfl, decide_eq_true_iff, decide_eq_true_iff, ?_, ?_⟩
  · rw [decide_eq_true_iff, Int.sub_one_lt_iff]
  · exact decide_eq_true_iff.trans (signedOverflow_iff_signs x y)

/-! ## The shifts as bit operations -/

theorem shift_lsl_eq_shiftLeft (v : Word) {k : Nat} (h0 : k ≠ 0) (c : Bool) : shift v .lsl k c = v <<< k := if_neg h0

theorem shift_lsr_eq_ushiftRight (v : Word) {k : Nat} (h0 : k ≠ 0) (c : Bool) : shift v .lsr k c = v >>> k := if_neg h0

theorem shift_ror_eq_rotateRight (v : Word) {k : Nat} (h0 : k ≠ 0) (c : Bool) :
    shift v .ror k c = v.rotateRight k := if_neg h0

theorem shift_rrx_eq_or (v : Word) (c : Bool) :
    shift v .rrx 1 c = field 32 31 (BitVec.ofBool c) ||| v >>> 1 := rfl

/-! ## The shifts -/

/-- Settles O8: reading the product as a word is taking it modulo 2^32. -/
theorem logicalShiftLeftMultiplies : Obligations.LogicalShiftLeftMultiplies := by
  intro v k c _ _
  rw [shift_lsl, BitVec.toNat_ofNat]

/-- Settles O9: the quotient needs no more bits than the value, and by 32 no bit is left. -/
theorem logicalShiftRightDivides : Obligations.LogicalShiftRightDivides := by
  intro v k c hk _
  rw [shift_lsr_eq_ushiftRight v (by omega)]
  refine ⟨?_, fun h32 => BitVec.ushiftRight_eq_zero h32.ge⟩
  rw [BitVec.toNat_ushiftRight, Nat.shiftRight_eq_div_pow]

/-- A word's signed value divided by 2^32, rounding down, is its sign. -/
theorem toInt_ediv_two_pow_32 (v : Word) : v.toInt / 2 ^ 32 = if v.getLsbD 31 then -1 else 0 := by
  have hlow := v.le_toInt
  have hhigh := v.toInt_lt
  have hsign : v.getLsbD 31 = decide (v.toInt < 0) := by rw [← BitVec.msb_eq_toInt, BitVec.msb_eq_getLsbD_last]
  by_cases hneg : v.toInt < 0
  · rw [hsign, decide_eq_true hneg, if_pos rfl]
    omega
  · rw [hsign, decide_eq_false hneg, if_neg Bool.false_ne_true]
    omega

/-- Settles O10: by 32 only the sign is left. -/
theorem arithmeticShiftRightDivides : Obligations.ArithmeticShiftRightDivides := by
  intro v k c _ _
  refine ⟨shift_asr v k c, ?_⟩
  rintro rfl
  rw [shift_asr, toInt_ediv_two_pow_32]
  split <;> rfl

/-- Settles O11: a bit below 32 - k comes from k places above, the others from the value's low k bits. -/
theorem rotateRightMovesBits : Obligations.RotateRightMovesBits := by
  intro v k c hk hk31
  have hmod : k % 32 = k := Nat.mod_eq_of_lt (by omega)
  rw [shift_ror_eq_rotateRight v (by omega), shift_lsr_eq_ushiftRight v (by omega),
    shift_lsl_eq_shiftLeft v (by omega)]
  refine ⟨by rw [BitVec.rotateRight_def, hmod], fun i hi => ?_⟩
  rw [BitVec.getLsbD_rotateRight, hmod]
  by_cases hik : i < 32 - k
  · have hbit : (i + k) % 32 = k + i := by omega
    simp [hik, hbit]
  · have hbit : (i + k) % 32 = i - (32 - k) := by omega
    simp [hik, hi, hbit]

/-- Settles O12: the carry's field is bit 31 alone, and the value's part has no bit there. -/
theorem rotateWithExtendUsesCarry : Obligations.RotateWithExtendUsesCarry := by
  intro v c
  rw [shift_rrx_eq_or]
  refine ⟨?_, fun i hi => ?_⟩
  · simp [getElem_field]
  · simp [getLsbD_field, hi, Nat.add_comm]

end Sys2Proof.Machine
end

section
/-! PROOFS. The PC as a source in A32 state, and which instruction a step runs and where it stops instead
(41_helper_functions.md R147, R163; 60_exceptions.md R190 to R193; log 32). -/

namespace Sys2Proof.Machine
open Sys2Proof Sys2Proof.Claims

/-! ## The PC as a source -/

/-- R147: the PC reads 8 ahead in A32 state. -/
theorem readReg_pc_of_a32 {s : State} (ht : s.pstate.t = false) : s.readReg 15 = s.pc + 8 := by
  refine s.readReg_pc.trans ?_
  rw [ht]
  rfl

/-- A1 ADD of the PC and a register shifted left, always executed. -/
theorem exec_addShiftA1_firstPc {rd : RegNum} {s : State} (ht : s.pstate.t = false) (hd : rd ≠ 15#4) (imm5 : BitVec 5)
    (rm : RegNum) :
    exec (.addShiftA1 14 15 rd imm5 0 rm) s =
      .next (written s rd (s.pc + 8 + operand false 0 imm5 (s.readReg rm) s.pstate.c) 4 s.pstate) := by
  rw [← readReg_pc_of_a32 ht]
  exact exec_a1_writes ht rfl hd false false 15 imm5 0 rm

/-- Settles O40: the PC as the first source, as both, and shifted. -/
theorem pcOperandReadsAhead : Obligations.PcOperandReadsAhead := by
  intro rd rm s ht hd _
  refine ⟨?_, ?_, ?_⟩
  · rw [exec_addShiftA1_firstPc ht hd, operand_lsl_zero]
  · rw [exec_addShiftA1_firstPc ht hd, operand_lsl_zero, readReg_pc_of_a32 ht]
  · rw [exec_addShiftA1_firstPc ht hd, operand_lsl_one, readReg_pc_of_a32 ht]

/-! ## The instruction at the pc -/

theorem frontEnd_of_decoded {s : State} {bits : InstrBits} {i : Instr} (ha : s.pcAligned = true)
    (hil : s.pstate.il = false) (hf : fetch s = .ok bits) (hd : decodeBits (inITBlock s.pstate.it) bits = .ok i) :
    frontEnd s = .ok i := by
  simp [frontEnd, ha, hil, hf, hd]

/-- R90: bits the decoder rejects. -/
theorem step_of_rejected {s : State} {bits : InstrBits} {r : Reject} (ha : s.pcAligned = true)
    (hil : s.pstate.il = false) (hf : fetch s = .ok bits)
    (hd : decodeBits (inITBlock s.pstate.it) bits = .error r) : step s = .refused (.rejected r) := by
  simp [step, frontEnd, ha, hil, hf, hd]

/-! ## The stops of an A1 instruction -/

theorem addValues_fst (f : AddForm) (s : State) :
    (addValues f (s.readReg f.n) (s.readReg f.m) s).1 = f.firstSource s + f.secondSource s :=
  congrArg Prod.fst (addWithCarry_eq (f.firstSource s) (f.secondSource s))

theorem sum_formA1 (setflags : Bool) (rn rd : RegNum) (imm5 : BitVec 5) (stype : BitVec 2) (rm : RegNum) (s : State) :
    (addValues (formA1 setflags rn rd imm5 stype rm) (s.readReg rn) (s.readReg rm) s).1 =
      s.readReg rn + shifted stype imm5 (s.readReg rm) s.pstate.c :=
  (addValues_fst (formA1 setflags rn rd imm5 stype rm) s).trans
    (congrArg _ (immediateShiftOperand stype imm5 (s.readReg rm) s.pstate.c))

/-- The form whose stops are an A1 instruction's own: its destination, its S bit and its sum are the word's. -/
theorem exists_formA1 {i : Instr} {cond : BitVec 4} (h : condField i = some cond) :
    ∃ f : AddForm, f.d = destination i ∧ f.setflags = setsFlags i ∧
      (∀ s, (addValues f (s.readReg f.n) (s.readReg f.m) s).1 = sumOf i s) ∧
      ∀ s, decidedStop i s = decidedA1 cond f s := by
  cases i with
  | addRrxA1 | addShiftA1 | addsRrxA1 | addsShiftA1 =>
    cases h
    exact ⟨_, rfl, rfl, sum_formA1 _ _ _ _ _ _, fun _ => rfl⟩
  | addsT1 | addT1 | addT2 | addRrxT3 | addShiftT3 | addsRrxT3 | addsShiftT3 => cases h

/-- The four rows of A1 decide by what their words name: the destination, the S bit and the sum (R114, R117). -/
theorem decidedStop_of_condField {i : Instr} {cond : BitVec 4} (h : condField i = some cond) (s : State) :
    decidedStop i s =
      if destination i = 15#4 ∧ conditionHolds cond s.pstate = true then
        if setsFlags i then
          if s.pstate.mode = .hyp then some (.inl (.undefined s.pc))
          else if s.currentSpsr = none then some (.inr .returnInUserOrSystem)
          else none
        else if s.pstate.t = false ∧ (sumOf i s).extractLsb' 0 2 = 2#2 then some (.inr .branchTargetTen)
        else none
      else none := by
  obtain ⟨f, hd, hs, hsum, hstop⟩ := exists_formA1 h
  rw [hstop, decidedA1, hsum, hd, hs]

/-- The exception returns are the ADDS rows of A1 with the PC as destination (R114). -/
theorem isExceptionReturn_iff {i : Instr} {cond : BitVec 4} (h : condField i = some cond) :
    isExceptionReturn i = true ↔ destination i = 15#4 ∧ setsFlags i = true := by
  cases i with
  | addRrxA1 | addShiftA1 => simp [isExceptionReturn, setsFlags]
  | addsRrxA1 | addsShiftA1 => simp [isExceptionReturn, setsFlags, destination]
  | addsT1 | addT1 | addT2 | addRrxT3 | addShiftT3 | addsRrxT3 | addsShiftT3 => cases h

/-- R33: only User and System mode have no SPSR. -/
theorem State.currentSpsr_eq_none_iff (s : State) : s.currentSpsr = none ↔ s.pstate.mode ∈ [Mode.user, .system] := by
  unfold State.currentSpsr
  cases s.pstate.mode <;> simp

/-- R114, R191: the return in Hyp mode is UNDEFINED. -/
theorem decidedStop_of_returnInHyp {i : Instr} {s : State} (h : returnIn [.hyp] i s) :
    decidedStop i s = some (.inl (.undefined s.pc)) := by
  obtain ⟨hret, ⟨cond, hcond, hc⟩, hmode⟩ := h
  obtain ⟨hd, hset⟩ := (isExceptionReturn_iff hcond).mp hret
  rw [decidedStop_of_condField hcond, if_pos ⟨hd, hc⟩, if_pos hset, if_pos (List.mem_singleton.mp hmode)]

/-- R192 (b): the return in User and System mode, which have no SPSR. -/
theorem decidedStop_of_returnInUserOrSystem {i : Instr} {s : State} (h : returnIn [.user, .system] i s) :
    decidedStop i s = some (.inr .returnInUserOrSystem) := by
  obtain ⟨hret, ⟨cond, hcond, hc⟩, hmode⟩ := h
  obtain ⟨hd, hset⟩ := (isExceptionReturn_iff hcond).mp hret
  have hhyp : s.pstate.mode ≠ .hyp := fun hm => by simp [hm] at hmode
  rw [decidedStop_of_condField hcond, if_pos ⟨hd, hc⟩, if_pos hset, if_neg hhyp,
    if_pos (s.currentSpsr_eq_none_iff.mpr hmode)]

/-- R192 (c): the A32 branch to an address with bits[1:0] 10. -/
theorem decidedStop_of_branchesToTen {i : Instr} {s : State} (ht : s.pstate.t = false) (h : branchesToTen i s) :
    decidedStop i s = some (.inr .branchTargetTen) := by
  obtain ⟨⟨cond, hcond, hc⟩, hd, hset, hten⟩ := h
  rw [decidedStop_of_condField hcond, if_pos ⟨hd, hc⟩, if_neg (by simp [hset]), if_pos ⟨ht, hten⟩]

/-- No other A1 instruction stops. -/
theorem decidedStop_of_a1_allowed {i : Instr} {s : State} {cond : BitVec 4} (hcond : condField i = some cond)
    (hret : ¬ returnIn [.hyp, .user, .system] i s) (hten : ¬ branchesToTen i s) : decidedStop i s = none := by
  rw [decidedStop_of_condField hcond]
  split_ifs with hpass hset hhyp hspsr hb
  · refine absurd ⟨(isExceptionReturn_iff hcond).mpr ⟨hpass.1, hset⟩, ⟨cond, hcond, hpass.2⟩, ?_⟩ hret
    simp [hhyp]
  · refine absurd ⟨(isExceptionReturn_iff hcond).mpr ⟨hpass.1, hset⟩, ⟨cond, hcond, hpass.2⟩, ?_⟩ hret
    exact List.mem_cons_of_mem _ (s.currentSpsr_eq_none_iff.mp hspsr)
  · rfl
  · exact absurd ⟨⟨cond, hcond, hpass.2⟩, hpass.1, by simpa using hset, hb.2⟩ hten
  · rfl
  · rfl

/-! ## The stops of a T32 instruction -/

theorem condField_eq_none_iff {i : Instr} : condField i = none ↔ i.isT32 = true := by
  cases i <;> simp [condField, Instr.isT32]

/-- Beyond R80's, R82's and R85's words, a T32 instruction stops for nothing but the IT state (R142). -/
theorem decidedStop_of_t32_predictable {i : Instr} {s : State} (ht : i.isT32 = true)
    (hu : isUnpredictable s.pstate.it i = false) : decidedStop i s = decidedT32 s none := by
  have own : ∀ {o : Option Stop}, o = none → decidedT32 s o = decidedT32 s none := congrArg (decidedT32 s)
  cases i with
  | addRrxA1 | addShiftA1 | addsRrxA1 | addsShiftA1 => cases ht
  | addsT1 | addT1 => rfl
  | addT2 => exact own (decidedT2_of_predictable hu)
  | addRrxT3 | addShiftT3 | addsRrxT3 | addsShiftT3 => exact own (decidedT3_of_predictable hu)

theorem decidedStop_of_t32_allowed {i : Instr} {s : State} (ht : i.isT32 = true)
    (hu : isUnpredictable s.pstate.it i = false) (hit : ¬ malformedIT i s.pstate) : decidedStop i s = none := by
  rw [decidedStop_of_t32_predictable ht hu]
  exact if_neg fun h => hit ⟨ht, h⟩

/-! ## Every step on an instruction -/

/-- The stops StepRunsDecoded lists are all there are. -/
theorem decidedStop_of_allowed {i : Instr} {s : State} (hu : isUnpredictable s.pstate.it i = false)
    (hit : ¬ malformedIT i s.pstate) (hret : ¬ returnIn [.hyp, .user, .system] i s) (hten : ¬ branchesToTen i s) :
    decidedStop i s = none := by
  cases hcond : condField i with
  | none => exact decidedStop_of_t32_allowed (condField_eq_none_iff.mp hcond) hu hit
  | some cond => exact decidedStop_of_a1_allowed hcond hret hten

/-- The instruction set of an A1 word is A32. -/
theorem isT32_of_passesA1 {i : Instr} {p : Pstate} (h : passesA1 i p) : i.isT32 = false := by
  obtain ⟨cond, hcond, -⟩ := h
  refine Bool.eq_false_iff.mpr fun ht => ?_
  rw [condField_eq_none_iff.mpr ht] at hcond
  cases hcond

/-- Settles O45: the step performs what it decoded, and each of the cases has its stop or none. -/
theorem stepRunsDecoded : Obligations.StepRunsDecoded := by
  intro s bits ha hil hf
  refine ⟨fun i hd => ?_, fun r hd => step_of_rejected ha hil hf hd⟩
  have ht : i.isT32 = s.pstate.t := isT32_of_fetch hf hd
  rw [step_of_frontEnd (frontEnd_of_decoded ha hil hf hd)]
  refine ⟨fun hu => ?_, fun hu => ⟨fun hm => ?_, fun hr => ?_, fun hr => ?_, fun hb => ?_, fun hm hr hb => ?_⟩⟩
  · obtain ⟨case, hstop⟩ := decidedStop_of_unpredictable (decodeBits_wellFormed hd) hu
    exact ⟨case, perform_of_decided hstop⟩
  · exact perform_of_decided (decidedStop_of_malformed hm hu)
  · exact perform_of_decided (decidedStop_of_returnInHyp hr)
  · exact perform_of_decided (decidedStop_of_returnInUserOrSystem hr)
  · exact perform_of_decided (decidedStop_of_branchesToTen (ht.symm.trans (isT32_of_passesA1 hb.1)) hb)
  · exact perform_of_undecided (decidedStop_of_allowed hu hm hr hb)

end Sys2Proof.Machine
end

section
/-! PROOFS. Who changes the mode, and what a step that stays in User mode keeps (10_state.md R23, R36, R37;
60_exceptions.md R202; logs 10, 19, 32). -/

namespace Sys2Proof.Machine
open Sys2Proof Sys2Proof.Claims

/-- Settles O55: an ordinary instruction's effects keep the mode with the rest of PSTATE. -/
theorem modeChangesOnlyThroughExceptions : Obligations.ModeChangesOnlyThroughExceptions := by
  intro i s t h hm
  by_contra hn
  have ho : ordinary i s := by simpa [ordinary] using hn
  obtain ⟨⟨-, -, -, -, -, -, -, -, -, -, hmode⟩, -⟩ := ((exec_effect h).ordinaryEffect ho).restOfPstateUnchanged
  exact hm hmode

/-! ## A step that stays in User mode -/

/-- An exception is taken to Hyp or Undefined mode, so no entry stays in User mode. -/
theorem takeException_mode_ne_user (ec : BitVec 6) (s : State) : (takeException ec s).pstate.mode ≠ .user := by
  rcases takeException_cases ec s with ⟨-, h⟩ | ⟨-, -, h⟩ | ⟨-, -, h⟩ <;> simp [h]

theorem OrdinaryEffect.keepsMasks {i : Instr} {s t : State} (h : OrdinaryEffect i s t) :
    Claims.restOfPstateUnchanged s.pstate t.pstate ∧ Claims.exceptionRegistersUnchanged s t :=
  ⟨h.restOfPstateUnchanged.1, h.exceptionRegistersUnchanged⟩

/-- User mode has no SPSR to return with, and an exception leaves it; the other effects write of PSTATE only the flags,
IT and T. -/
theorem Effect.keepsMasks {i : Instr} {s t : State} (hs : s.pstate.mode = .user) (ht : t.pstate.mode = .user)
    (h : Effect i s t) : restOfPstateUnchanged s.pstate t.pstate ∧ exceptionRegistersUnchanged s t := by
  cases h with
  | advances fresh => exact (OrdinaryEffect.advances (i := i) fresh).keepsMasks
  | writes fresh f r k hd hpc => exact (OrdinaryEffect.writes (i := i) fresh f r k hd hpc).keepsMasks
  | branches fresh a => exact (OrdinaryEffect.branches (i := i) fresh a).keepsMasks
  | branchesFreeIT fresh fresh' a =>
    obtain ⟨t, h, -⟩ := aluWritePC_pstate a { s with fresh := fresh }
    simp [restOfPstateUnchanged, exceptionRegistersUnchanged, h]
  | advancesFreeIT => simp [restOfPstateUnchanged, exceptionRegistersUnchanged]
  | returns fresh a spsr hd hset hm hspsr =>
    rw [s.currentSpsr_eq_none_iff.mpr (by simp [hs])] at hspsr
    cases hspsr
  | undefined => exact absurd ht (takeException_mode_ne_user 0 _)

/-- Settles O57: by the effects of a step, a step of the machine being one of the PE of log 32. -/
theorem userModeKeepsMasks : Obligations.UserModeKeepsMasks := by
  intro s t hs h ht
  rcases permittedStep_next (h.elim permittedStep_of_step id) with ⟨-, rfl⟩ | ⟨i, -, h⟩
  · exact absurd ht (takeException_mode_ne_user _ _)
  · exact (exec_effect h).keepsMasks hs ht

end Sys2Proof.Machine
end

section
/-! PROOFS. The condition table, the state after reset, and the first step on a placed word
(41_helper_functions.md R143, R163; 10_state.md R40; 20_memory.md R51, R52; logs 3 to 7). -/

namespace Sys2Proof.Machine
open Sys2Proof Sys2Proof.Claims

/-! ## The condition table -/

/-- The rows of the table with bit 0 clear (R143). -/
theorem conditionHolds_even (p : Pstate) :
    conditionHolds 0#4 p = p.z ∧ conditionHolds 2#4 p = p.c ∧ conditionHolds 4#4 p = p.n ∧
      conditionHolds 6#4 p = p.v ∧ conditionHolds 8#4 p = (p.c && !p.z) ∧ conditionHolds 10#4 p = (p.n == p.v) ∧
      conditionHolds 12#4 p = (p.n == p.v && !p.z) ∧ conditionHolds 14#4 p = true :=
  ⟨rfl, rfl, rfl, rfl, rfl, rfl, rfl, rfl⟩

/-- Bit 0 negates a condition, but for 1111 (R143). -/
theorem conditionHolds_odd {k : BitVec 3} (hk : k ≠ 7) (p : Pstate) :
    conditionHolds (k ++ 1#1) p = !conditionHolds (k ++ 0#1) p := by
  have hrow (b : BitVec 1) : (k ++ b).extractLsb' 1 3 = k := by revert k b; decide
  have hodd : ((k ++ 1#1).getLsbD 0 && k ++ 1#1 != 15#4) = true := by revert k; decide
  have heven : ((k ++ 0#1).getLsbD 0 && k ++ 0#1 != 15#4) = false := by revert k; decide
  simp only [conditionHolds, hrow, hodd, heven, if_true, Bool.false_eq_true, if_false]

/-- Settles O14: the even rows are the table's, the odd ones their negations. -/
theorem conditionTable : Obligations.ConditionTable := by
  intro p
  obtain ⟨h0, h2, h4, h6, h8, h10, h12, h14⟩ := conditionHolds_even p
  have negated (k : BitVec 3) (hk : k ≠ 7) {b : Bool} (h : conditionHolds (k ++ 0#1) p = b) :
      conditionHolds (k ++ 1#1) p = !b := h ▸ conditionHolds_odd hk p
  have h1 : conditionHolds 1#4 p = !p.z := negated 0 (by decide) h0
  have h3 : conditionHolds 3#4 p = !p.c := negated 1 (by decide) h2
  have h5 : conditionHolds 5#4 p = !p.n := negated 2 (by decide) h4
  have h7 : conditionHolds 7#4 p = !p.v := negated 3 (by decide) h6
  have h9 : conditionHolds 9#4 p = !(p.c && !p.z) := negated 4 (by decide) h8
  have h11 : conditionHolds 11#4 p = !(p.n == p.v) := negated 5 (by decide) h10
  have h13 : conditionHolds 13#4 p = !(p.n == p.v && !p.z) := negated 6 (by decide) h12
  have h15 : conditionHolds 15#4 p = true := rfl
  simp [h0, h1, h2, h3, h4, h5, h6, h7, h8, h9, h10, h11, h12, h13, h14, h15, and_comm, or_comm]

/-! ## The state after reset -/

/-- Settles O52: every field of the reset state is a literal. -/
theorem resetIsSound : Obligations.ResetIsSound :=
  ⟨⟨reset_mem_wf, rfl, rfl, rfl⟩, .inl rfl, rfl, rfl, rfl, rfl, rfl, rfl⟩

/-! ## Placed bytes -/

theorem add_ofNat_succ (a : Word) (k : Nat) : a + BitVec.ofNat 32 (k + 1) = a + 1 + BitVec.ofNat 32 k := by
  rw [Nat.add_comm, BitVec.ofNat_add, BitVec.add_assoc]
  rfl

/-- Placing bytes leaves every other address as it was. -/
theorem Memory.read_writeBytes_other {a c : Word} {bs : List Byte}
    (h : ∀ k < bs.length, c ≠ a + BitVec.ofNat 32 k) (m : List Host.Cell) :
    Memory.read (Memory.writeBytes a bs m) c.toNat = Memory.read m c.toNat := by
  induction bs generalizing a m with
  | nil => rfl
  | cons b bs ih =>
    have h0 : c ≠ a := by simpa using h 0 (by simp)
    have hrest : ∀ k < bs.length, c ≠ a + 1 + BitVec.ofNat 32 k := fun k hk =>
      add_ofNat_succ a k ▸ h (k + 1) (Nat.succ_lt_succ hk)
    exact (ih hrest _).trans (Memory.read_write_other (h0 ∘ BitVec.eq_of_toNat_eq) b m)

/-- A placed byte is read back at its address, if the bytes do not wrap around onto each other. -/
theorem Memory.read_writeBytes {a : Word} {bs : List Byte} (hlen : bs.length ≤ 2 ^ 32) (m : List Host.Cell) {k : Nat}
    (hk : k < bs.length) :
    Memory.read (Memory.writeBytes a bs m) (a + BitVec.ofNat 32 k).toNat = some bs[k] := by
  induction bs generalizing a m k with
  | nil => cases hk
  | cons b bs ih =>
    rw [List.length_cons] at hlen
    cases k with
    | zero =>
      have hrest : ∀ j < bs.length, a ≠ a + 1 + BitVec.ofNat 32 j := fun j hj => by
        rw [← add_ofNat_succ]
        bv_omega
      rw [BitVec.add_zero, Memory.writeBytes, Memory.read_writeBytes_other hrest]
      exact Memory.read_write_same a.toNat b m
    | succ k =>
      rw [add_ofNat_succ]
      exact ih (Nat.le_of_succ_le hlen) _ (Nat.lt_of_succ_lt_succ hk)

/-! ## The step on a placed word -/

/-- A table word is four bytes (log 7). -/
theorem exists_tableWordLayout (nbits w : Nat) :
    ∃ t b0 b1 b2 b3, tableWordLayout nbits w = (t, [b0, b1, b2, b3]) := by
  unfold tableWordLayout
  dsimp only
  split_ifs
  · exact ⟨_, _, _, _, _, rfl⟩
  · exact ⟨_, _, _, _, _, rfl⟩
  · exact ⟨_, _, _, _, _, rfl⟩

/-- The instruction that `decode` reads from four bytes is the one that a fetch of them finds. -/
theorem exists_fetch_of_decode {s : State} {b0 b1 b2 b3 : Byte} {inIT : Bool} {i : Instr} {rest : List Byte}
    (hbyte : ∀ (k : Nat) (hk : k < 4), s.readByte (s.pc + BitVec.ofNat 32 k) = some [b0, b1, b2, b3][k])
    (h : decode s.pstate.t inIT [b0, b1, b2, b3] = .ok (i, rest)) :
    ∃ bits, fetch s = .ok bits ∧ decodeBits inIT bits = .ok i := by
  have h0 : s.readByte s.pc = some b0 := (congrArg _ (BitVec.add_zero s.pc)).symm.trans (hbyte 0 (by decide))
  have h3 : s.readByte (s.pc + 2 + 1) = some b3 :=
    (congrArg _ (BitVec.add_assoc s.pc 2 1)).trans (hbyte 3 (by decide))
  have hlow := fetchHalf_of_some h0 (hbyte 1 (by decide))
  have hhigh := fetchHalf_of_some (hbyte 2 (by decide)) h3
  have of_map {d : Except Reject Instr} {r : List Byte} (hm : d.map (·, r) = .ok (i, rest)) : d = .ok i := by
    cases d <;> cases hm
    rfl
  unfold decode at h
  dsimp only at h
  split at h
  · next hc =>
    obtain ⟨ht, hshort⟩ : s.pstate.t = true ∧ matchesT3 (halfOfBytes b0 b1) = false := by simpa using hc
    exact ⟨_, fetch_eq_t16 ht hlow hshort, of_map h⟩
  · next hc =>
    split at h
    · next ht =>
      have hlong : matchesT3 (halfOfBytes b0 b1) = true := by simpa [ht] using hc
      exact ⟨_, fetch_eq_t32 ht hlow hlong hhigh, of_map h⟩
    · next ht => exact ⟨_, fetch_eq_a32 (Bool.eq_false_iff.mpr ht) hlow hhigh, of_map h⟩

theorem placeWord_pcAligned (s : State) (nbits w : Nat) : (placeWord s nbits w).pcAligned = true := by
  rw [pcAligned_iff]
  simp only [placeWord]
  split
  · next ht => rw [ht]; exact alignedFor_alignHalf s.pc
  · next ht => rw [Bool.eq_false_iff.mpr ht]; exact alignedFor_alignWord s.pc

theorem decode_of_decodeTableWord {nbits w : Nat} {i : Instr} (h : decodeTableWord nbits w = some i) :
    ∃ rest, decode (tableWordLayout nbits w).1 false (tableWordLayout nbits w).2 = .ok (i, rest) := by
  unfold decodeTableWord at h
  dsimp only at h
  split at h
  · next j rest hd => cases h; exact ⟨rest, hd⟩
  · cases h

/-- A word placed outside an IT block is the instruction at the pc (logs 6, 7). -/
theorem frontEnd_placeWord {s : State} {nbits w : Nat} {i : Instr} (hit : inITBlock s.pstate.it = false)
    (h : decodeTableWord nbits w = some i) : frontEnd (placeWord s nbits w) = .ok i := by
  obtain ⟨t, b0, b1, b2, b3, hlayout⟩ := exists_tableWordLayout nbits w
  obtain ⟨rest, hdec⟩ := decode_of_decodeTableWord h
  have ht : (placeWord s nbits w).pstate.t = t := congrArg Prod.fst hlayout
  have byte (k : Nat) (hk : k < 4) :
      (placeWord s nbits w).readByte ((placeWord s nbits w).pc + BitVec.ofNat 32 k) = some [b0, b1, b2, b3][k] := by
    have hmem : (placeWord s nbits w).mem = Memory.writeBytes (placeWord s nbits w).pc [b0, b1, b2, b3] s.mem := by
      simp only [placeWord, hlayout]
    rw [State.readByte, hmem]
    exact Memory.read_writeBytes (by simp) s.mem hk
  rw [hlayout, ← ht] at hdec
  obtain ⟨bits, hf, hd⟩ := exists_fetch_of_decode byte hdec
  exact frontEnd_of_decoded (placeWord_pcAligned s nbits w) rfl hf (hit ▸ hd)

/-- Settles O48: the placed bytes are fetched and decode to the instruction, which the step performs. -/
theorem placedWordRunsAfterReset : Obligations.PlacedWordRunsAfterReset := by
  intro nbits w i h
  have hstep : step (State.reset.withFetchWord nbits w) = perform i (State.reset.withFetchWord nbits w) :=
    step_of_frontEnd (frontEnd_placeWord rfl h)
  exact ⟨hstep, fun hd => hstep.trans (perform_of_undecided hd)⟩

end Sys2Proof.Machine
end

section
/-! PROOFS. Taking the Undefined Instruction exception and returning from one (41_helper_functions.md R159 to R162;
60_exceptions.md R191, R194, R195, R199; logs 8 to 16, 23, 31). -/

namespace Sys2Proof.Machine
open Sys2Proof Sys2Proof.Claims

/-! ## Taking an exception -/

theorem enterHyp_hypEntry (ec : BitVec 6) (offset : Word) (s : State) : hypEntry offset s (enterHyp ec offset s) := by
  simp [hypEntry, savedRegistersUnchanged]

theorem enterUndef_undefinedEntry (s : State) : undefinedEntry s (enterUndef s) := by
  simp [undefinedEntry, savedRegistersUnchanged, State.exceptionBase, undefVector, undefReturnAddress]

/-- The exceptions that HCR.TGE takes to Hyp mode (log 13). -/
theorem State.routedToHyp_iff (s : State) :
    s.routedToHyp = true ↔
      s.pstate.mode = .user ∧ s.secure = false ∧ Config.hasHyp = true ∧ s.hcrTGE = true := by
  unfold State.routedToHyp
  cases s.hcrTGE <;> simp [and_assoc]

/-- Where the exception goes, and what its entry does there. -/
theorem takeException_exceptionTaken (ec : BitVec 6) (s : State) : exceptionTaken s (takeException ec s) := by
  unfold exceptionTaken
  rcases takeException_cases ec s with ⟨hm, h⟩ | ⟨hm, hr, h⟩ | ⟨hm, hr, h⟩
  · rw [if_pos hm, h]
    exact enterHyp_hypEntry ec 4 s
  · rw [if_neg hm, if_pos (s.routedToHyp_iff.mp hr), h]
    exact enterHyp_hypEntry ec 0x14 s
  · rw [if_neg hm, if_neg (fun hn => Bool.eq_false_iff.mp hr (s.routedToHyp_iff.mpr hn)), h]
    exact enterUndef_undefinedEntry s

theorem takeException_memoryUnchanged (ec : BitVec 6) (s : State) : memoryUnchanged s (takeException ec s) := by
  intro a
  rw [State.readByte, takeException_mem, State.readByte]

/-- HSR records the exception class on an entry to Hyp mode (R194). -/
theorem takeException_hsrEC {ec : BitVec 6} {s : State} (h : (takeException ec s).pstate.mode = .hyp) :
    (takeException ec s).hsrEC = ec := by
  rcases takeException_cases ec s with ⟨-, he⟩ | ⟨-, -, he⟩ | ⟨-, -, he⟩
  · rw [he, enterHyp_hsrEC]
  · rw [he, enterHyp_hsrEC]
  · rw [he, enterUndef_pstate] at h
    cases h

theorem takeUndefined_undefinedTaken (s : State) : undefinedTaken s (takeUndefined s) :=
  ⟨takeException_exceptionTaken 0 s, takeException_hsrEC, takeException_memoryUnchanged 0 s,
    takeException_controlsUnchanged 0 s⟩

/-- Settles O49: an Illegal Execution state is looked at after the fetch and before the decode. -/
theorem illegalStateTakesException : Obligations.IllegalStateTakesException := by
  intro s bits ha hf hil
  have hstep : step s = .next (takeIllegalState s) := by simp [step, frontEnd, ha, hf, hil]
  exact ⟨_, hstep, takeException_exceptionTaken _ { s with fresh := s.fresh + 1 },
    takeException_memoryUnchanged _ _, takeException_controlsUnchanged _ _⟩

/-! ## ADDS to the PC -/

/-- A1 ADDS to the PC hands its sum to the return (R114). -/
theorem exec_a1_addsPc {cond : RegNum} {s : State} (hc : conditionHolds cond s.pstate = true) (rrx : Bool) (rn : RegNum)
    (imm5 : BitVec 5) (stype : BitVec 2) (rm : RegNum) :
    exec (a1 true rrx cond rn 15#4 imm5 stype rm) s =
      aluExceptionReturn (s.readReg rn + operand rrx stype imm5 (s.readReg rm) s.pstate.c) 4 s := by
  rw [exec_a1, runA1_of_passes hc, operate_eq, addWithCarry_eq, firstSource_formA1, secondSource_formA1]
  rfl

theorem aluExceptionReturn_of_hyp {s : State} (hm : s.pstate.mode = .hyp) (a len : Word) :
    aluExceptionReturn a len s = .next (takeUndefined s) := if_pos hm

theorem aluExceptionReturn_of_spsr {s : State} {spsr : Word} (hm : s.pstate.mode ≠ .hyp)
    (hspsr : s.currentSpsr = some spsr) (a len : Word) :
    aluExceptionReturn a len s = .next (exceptionReturn a spsr s) := by
  rw [aluExceptionReturn, if_neg hm, hspsr]

/-- Settles O23: in Hyp mode the return is UNDEFINED, and the exception stays in Hyp mode. -/
theorem exceptionReturnUndefinedInHyp : Obligations.ExceptionReturnUndefinedInHyp := by
  intro rrx cond rn rm imm5 stype s hc hm
  obtain ⟨hentry, hec, hmem, hctl⟩ := takeUndefined_undefinedTaken s
  rw [exceptionTaken, if_pos hm] at hentry
  refine ⟨_, (exec_a1_addsPc hc ..).trans (aluExceptionReturn_of_hyp hm _ _), hentry, hec ?_, hmem, hctl⟩
  rw [hentry.1]

/-- Settles O24: User and System mode have no SPSR, so the implementation's choice decides. -/
theorem exceptionReturnInUserOrSystem : Obligations.ExceptionReturnInUserOrSystem := by
  intro rrx cond rn rm imm5 stype s ht hc hm
  have hspsr : s.currentSpsr = none := s.currentSpsr_eq_none_iff.mpr (by simpa using hm)
  have hhyp : s.pstate.mode ≠ .hyp := by rcases hm with hm | hm <;> simp [hm]
  rw [exec_a1_addsPc hc, aluExceptionReturn, if_neg hhyp, hspsr]
  cases hcu : Config.cuAluExcRet
  · exact ⟨_, rfl, .inl ⟨rfl, takeUndefined_undefinedTaken s⟩⟩
  · exact ⟨_, rfl, .inr ⟨rfl, advance_of_a32 ht 4⟩⟩

/-! ## The state a return answers -/

/-- What a return writes besides the pc and PSTATE, and what it keeps (R159, R161). -/
theorem exceptionReturn_frame (a spsr : Word) (s : State) :
    (exceptionReturn a spsr s).exclusiveLocal = false ∧ (exceptionReturn a spsr s).eventRegister = true ∧
      (exceptionReturn a spsr s).gpr = s.gpr ∧ savedRegistersUnchanged s (exceptionReturn a spsr s) ∧
      memoryUnchanged s (exceptionReturn a spsr s) ∧ controlsUnchanged s (exceptionReturn a spsr s) := by
  simp [savedRegistersUnchanged, memoryUnchanged, controlsUnchanged, State.readByte]

theorem alignedTo_eq_and (t : Bool) (a : Word) :
    (if t then alignHalf a else alignWord a) = a &&& (if t then 0xFFFFFFFE#32 else 0xFFFFFFFC#32) := by
  cases t <;> rfl

/-- A legal return goes to the mode the SPSR names, with its T and IL (R162). -/
theorem setPstateFromPsr_of_legal {spsr : Word} {illegal : Bool} {m : Mode} (hl : illegal = false)
    (hm : spsr.extractLsb' 0 5 = m.bits) (p : Pstate) :
    (setPstateFromPsr spsr illegal p).mode = m ∧ (setPstateFromPsr spsr illegal p).t = spsr.getLsbD 5 ∧
      (setPstateFromPsr spsr illegal p).il = spsr.getLsbD 20 := by
  simp [setPstateFromPsr, hl, Mode.ofBits_eq_some_iff.mpr hm]

/-- An illegal return keeps the mode, sets IL and copies or clears T (R162, R195; log 15). -/
theorem setPstateFromPsr_of_illegal {illegal : Bool} (hi : illegal = true) (spsr : Word) (p : Pstate) :
    (setPstateFromPsr spsr illegal p).mode = p.mode ∧ (setPstateFromPsr spsr illegal p).il = true ∧
      ((setPstateFromPsr spsr illegal p).t = spsr.getLsbD 5 ∨ (setPstateFromPsr spsr illegal p).t = false) := by
  cases hcopy : Config.illegalReturnCopiesT <;> simp [setPstateFromPsr, hi, hcopy]

/-- Settles O19: a legal return restores what the SPSR holds. -/
theorem exceptionReturnRestoresState : Obligations.ExceptionReturnRestoresState := by
  intro rrx cond rn rm imm5 stype s spsr m hc hhyp hspsr hm hlegal
  obtain ⟨hmode, ht, hil⟩ := setPstateFromPsr_of_legal hlegal hm s.pstate
  refine ⟨_, (exec_a1_addsPc hc ..).trans (aluExceptionReturn_of_spsr hhyp hspsr _ _), ?_, hmode, rfl, rfl, rfl, rfl,
    rfl, hil, rfl, rfl, rfl, rfl, rfl, ht, exceptionReturn_frame _ _ _⟩
  rw [exceptionReturn_pc, alignedTo_eq_and, ht]

/-- Settles O21: beside IL, the mode and T, an illegal return restores what a legal one does. -/
theorem illegalReturnSetsIL : Obligations.IllegalReturnSetsIL := by
  intro rrx cond rn rm imm5 stype s spsr hc hhyp hspsr hill
  obtain ⟨hmode, hil, ht⟩ := setPstateFromPsr_of_illegal hill spsr s.pstate
  exact ⟨_, (exec_a1_addsPc hc ..).trans (aluExceptionReturn_of_spsr hhyp hspsr _ _), hil, hmode, rfl, rfl, rfl, rfl,
    rfl, rfl, rfl, rfl, rfl, rfl, ht, alignedTo_eq_and _ _, exceptionReturn_frame _ _ _⟩

/-- The two SPSR fields of the IT state are its upper six and its lower two bits (R30, R31). -/
theorem itFields_eq_ofNat (hi : BitVec 6) (lo : BitVec 2) :
    field 8 2 hi ||| field 8 0 lo = BitVec.ofNat 8 (4 * hi.toNat + lo.toNat) := by
  revert hi lo; decide

theorem restoredIT_eq (t : Bool) (spsr : Word) :
    restoredIT t spsr =
      (let it : BitVec 8 := BitVec.ofNat 8 (4 * (spsr.extractLsb' 10 6).toNat + (spsr.extractLsb' 25 2).toNat)
       if t && inITBlock it then it else 0) := by
  rw [restoredIT, itFields_eq_ofNat]

/-- Settles O20: IT and the optional fields are restored alike by a legal and an illegal return. -/
theorem exceptionReturnRestoresIT : Obligations.ExceptionReturnRestoresIT := by
  intro rrx cond rn rm imm5 stype s spsr hc hhyp hspsr
  dsimp only
  have hit (a : Word) :
      (exceptionReturn a spsr s).pstate.it = restoredIT (exceptionReturn a spsr s).pstate.t spsr := rfl
  refine ⟨_, (exec_a1_addsPc hc ..).trans (aluExceptionReturn_of_spsr hhyp hspsr _ _), exceptionReturn_itLegal _ _ _,
    fun ht hin => ?_, fun hz => ?_, rfl, rfl, rfl⟩
  · rw [hit, ht, restoredIT_eq]
    exact if_pos hin
  · rw [hit, restoredIT_eq]
    refine if_neg fun h => ?_
    obtain ⟨ht, hin⟩ := Bool.and_eq_true_iff.mp h
    rcases hz with h | h
    · rw [h] at ht; cases ht
    · rw [h] at hin; cases hin

/-! ## An exception and its return -/

/-- A mask that spares the bits from `n` up keeps an address whose lower bits are zero. -/
theorem and_eq_self_of_low_zero {n : Nat} {mask a : Word}
    (hmask : ∀ i : Fin 32, n ≤ i.val → mask.getLsbD i = true) (h : a.extractLsb' 0 n = 0) : a &&& mask = a := by
  ext i hi
  rw [BitVec.getElem_and]
  by_cases hn : i < n
  · have hlow : a[i] = false := by
      simpa [hn, BitVec.getLsbD_eq_getElem hi] using congrArg (·.getLsbD i) h
    rw [hlow, Bool.false_and]
  · have hkept : mask[i] = true := hmask ⟨i, hi⟩ (Nat.le_of_not_lt hn)
    rw [hkept, Bool.and_true]

theorem alignedFor.align_eq {t : Bool} {a : Word} (h : alignedFor t a) :
    (if t then alignHalf a else alignWord a) = a := by
  cases t
  · exact and_eq_self_of_low_zero (n := 2) (by decide) h
  · exact and_eq_self_of_low_zero (n := 1) (by decide) h

/-- Settles O59: SPSR_und holds the image of PSTATE, which names User mode, so the return is legal. -/
theorem undefinedThenReturnRestores : Obligations.UndefinedThenReturnRestores := by
  intro s hm htge hit ha
  have hroute : s.routedToHyp = false := by simp [State.routedToHyp, htge]
  have hentry : takeUndefined s = enterUndef s := by
    simp [takeUndefined, takeException, hm, hroute]
  have hlegal : illegalReturn s.pstate.image (enterUndef s) = false := by
    rw [Bool.eq_false_iff, ne_eq, illegalReturn_iff_of_mode ((image_mode s.pstate).trans (congrArg Mode.bits hm))]
    simp [level]
  have hp : (exceptionReturn s.pc s.pstate.image (enterUndef s)).pstate = s.pstate := by
    rw [exceptionReturn_pstate, hlegal]
    exact savedPstateRestores s.pstate _ hit rfl rfl rfl
  have hpc : (exceptionReturn s.pc s.pstate.image (enterUndef s)).pc = s.pc := by
    rw [exceptionReturn_pc, ← exceptionReturn_pstate s.pc, hp]
    exact (pcAligned_iff.mp ha).align_eq
  have hgpr := exceptionReturn_gpr s.pc s.pstate.image (enterUndef s)
  dsimp only
  rw [hentry, enterUndef_spsrUnd]
  refine ⟨rfl, hp, hpc, fun r hr => ?_, rfl⟩
  generalize exceptionReturn s.pc s.pstate.image (enterUndef s) = t at hp hgpr
  have hlr : gprSlot .undef 14 ≠ gprSlot s.pstate.mode r := (gprSlot_undef_lr (by simp [hm]) hr).symm
  simp only [t.readReg_of_ne_pc hr, s.readReg_of_ne_pc hr, hp, hgpr, enterUndef_gpr, getElem_set_fin, if_neg hlr]

end Sys2Proof.Machine
end

section
/-! PROOFS. The UNPREDICTABLE words: each does one of the behaviours that 93_implementation_defined.md lists for it, or
stops (U3 to U8, U10; logs 19, 32). -/

namespace Sys2Proof.Machine
open Sys2Proof Sys2Proof.Claims

/-! ## What is listed for every UNPREDICTABLE word -/

/-- In a legal IT state an instruction is executed or skipped (R142). -/
theorem passesT32_or_failsT32 {p : Pstate} (hit : p.it = 0 ∨ inITBlock p.it = true) : passesT32 p ∨ failsT32 p := by
  rcases hit with h0 | hin
  · exact .inl (.inl h0)
  · cases hc : conditionHolds (p.it.extractLsb' 4 4) p
    · exact .inr ⟨hin, hc⟩
    · exact .inl (.inr ⟨hin, hc⟩)

section LegalIT
variable {s : State} (ht : s.pstate.t = true) (hit : s.pstate.it = 0 ∨ inITBlock s.pstate.it = true)
include ht hit

/-- A NOP, after the free value of the choice is used. -/
theorem undefinedNopOrStop_advance (case : Config.UnpredCase) (len : Word) :
    undefinedNopOrStop case len s (.next (advance len (takeFree s).2)) :=
  .inr (.inl (congrArg _ (advance_of_t32 (s := (takeFree s).2) ht hit len)))

/-- The free choice: one of the common behaviours, or one of the two ways of executing. -/
theorem unpredictable_outcomes (case : Config.UnpredCase) (len : Word) (execute variant : State → Result) :
    undefinedNopOrStop case len s (unpredictable case len execute variant s) ∨
      unpredictable case len execute variant s = execute (takeFree s).2 ∨
      unpredictable case len execute variant s = variant (takeFree s).2 := by
  have hc : currentCondT32 s.pstate ≠ none := by simp [currentCondT32_of_legal hit]
  rw [unpredictable, if_neg hc]
  cases Config.unpred case s.fresh with
  | undefined => exact .inl (.inl ⟨_, rfl, takeUndefined_undefinedTaken (takeFree s).2⟩)
  | nop => exact .inl (undefinedNopOrStop_advance ht hit case len)
  | execute => exact .inr (.inl rfl)
  | variant => exact .inr (.inr rfl)
  | unlisted => exact .inl (.inr (.inr rfl))

/-- To execute under the condition of the IT state is to execute, or to be a NOP where the condition fails (U8). -/
theorem conditionalT32_outcomes (case : Config.UnpredCase) (len : Word) (body : State → Result) :
    undefinedNopOrStop case len s (conditionalT32 len body (takeFree s).2) ∨
      (passesT32 s.pstate ∧ conditionalT32 len body (takeFree s).2 = body (takeFree s).2) := by
  rcases passesT32_or_failsT32 hit with hp | hf
  · exact .inr ⟨hp, conditionalT32_of_passes (s := (takeFree s).2) hp len body⟩
  · rw [conditionalT32_of_fails (s := (takeFree s).2) hf]
    exact .inl (undefinedNopOrStop_advance ht hit case len)

/-- A word with one way of executing. -/
theorem unpredictable_conditionalT32_outcomes (case : Config.UnpredCase) (len : Word) (body : State → Result) :
    undefinedNopOrStop case len s
        (unpredictable case len (conditionalT32 len body) (conditionalT32 len body) s) ∨
      unpredictable case len (conditionalT32 len body) (conditionalT32 len body) s = body (takeFree s).2 := by
  rcases unpredictable_outcomes ht hit case len (conditionalT32 len body) (conditionalT32 len body) with h | h | h
  · exact .inl h
  all_goals
    rw [h]
    exact (conditionalT32_outcomes ht hit case len body).imp_right And.right

theorem branchUnknown_of_t32 : branchUnknown s = .next (branchedT32 (takeFree s).2 (takeFree s).1) :=
  congrArg _ (branchTo_of_t32 (s := (takeFree s).2) ht hit _)

/-- The end of the Operation, with any two source values: their sum goes to a destination that is not the PC. -/
theorem finish_of_ne_pc {f : AddForm} (hd : f.d ≠ 15#4) (x y : Word) :
    finish f (addWithCarry x y false) s =
      .next (written s f.d (x + y) f.len
        { (if f.setflags then withSumFlags x y s.pstate else s.pstate) with it := nextIT s.pstate.it }) := by
  rw [finish, if_neg hd, writeResult_eq, withNzcv_addWithCarry, addWithCarry_eq, Pstate.itAdvanced_of_t32 ht hit]
  cases f.setflags <;> rfl

end LegalIT

/-! ## Encoding T2 -/

/-- R80 (a). -/
theorem execAddT2_of_pcPc {dn : BitVec 1} {rm : RegNum} {rdn : BitVec 3} (hd : regDnRdn dn rdn = 15#4) (hm : rm = 15#4)
    (s : State) :
    execAddT2 dn rm rdn s =
      unpredictable .t2PcPc 2 (conditionalT32 2 branchUnknown) (conditionalT32 2 branchUnknown) s := by
  rw [execAddT2, if_pos ⟨hd, hm⟩]
  rfl

/-- Settles O30: `ADD PC, PC` has one way of executing, the branch to a free address. -/
theorem addPcPcOutcomes : Obligations.AddPcPcOutcomes := by
  intro s ht hit
  have hexec : exec (.addT2 1 15 7) s =
      unpredictable .t2PcPc 2 (conditionalT32 2 branchUnknown) (conditionalT32 2 branchUnknown) s :=
    execAddT2_of_pcPc (dn := 1) (rdn := 7) rfl rfl s
  rw [hexec]
  exact (unpredictable_conditionalT32_outcomes ht hit .t2PcPc 2 branchUnknown).imp_right fun h =>
    h.trans (branchUnknown_of_t32 (s := (takeFree s).2) ht hit)

/-- The branch of U4 by the condition of the IT state. -/
def branchFreeITIfPasses (f : AddForm) (s : State) : Result :=
  withCondition (currentCondT32 s.pstate) s fun passed => branchFreeIT f passed s

/-- R80 (b). -/
theorem execAddT2_of_branchInIT {dn : BitVec 1} {rm : RegNum} {rdn : BitVec 3} {s : State}
    (hd : regDnRdn dn rdn = 15#4) (hm : rm ≠ 15#4) (hin : inITBlock s.pstate.it = true)
    (hlast : lastInITBlock s.pstate.it = false) :
    execAddT2 dn rm rdn s =
      unpredictable .t2BranchInIT 2 (branchFreeITIfPasses (formT2 dn rm rdn)) (branchFreeIT (formT2 dn rm rdn) true)
        s := by
  rw [execAddT2, if_neg fun h => hm h.2, if_pos ⟨hd, hin, by simp [hlast]⟩]
  rfl

theorem branchFreeITIfPasses_of_inIT {s : State} (hin : inITBlock s.pstate.it = true) (f : AddForm) :
    branchFreeITIfPasses f s = branchFreeIT f (conditionHolds (s.pstate.it.extractLsb' 4 4) s.pstate) s := by
  rw [branchFreeITIfPasses, currentCondT32_of_legal (.inr hin), hin]
  rfl

/-- The branch of U4 that is taken. -/
theorem branchFreeIT_taken {s : State} (ht : s.pstate.t = true) (f : AddForm) :
    branchFreeIT f true s =
      .next { s with pc := (f.firstSource s + f.secondSource s) &&& 0xFFFFFFFE#32, fresh := s.fresh + 1,
                     pstate := { s.pstate with it := Config.freeIT s.fresh } } := by
  simp only [branchFreeIT, addValues_fst, if_true, aluWritePC, branchWritePC, ht, alignHalf]

/-- A free IT state hides whether it was advanced before. -/
theorem Pstate.itAdvanced_with_it (p : Pstate) (it : BitVec 8) :
    { p.itAdvanced with it := it } = { p with it := it } := by
  unfold Pstate.itAdvanced
  split <;> rfl

/-- The branch of U4 that its condition skips. -/
theorem branchFreeIT_skipped (f : AddForm) (s : State) :
    branchFreeIT f false s =
      .next { s with pc := s.pc + f.len, fresh := s.fresh + 1,
                     pstate := { s.pstate with it := Config.freeIT s.fresh } } :=
  congrArg (fun p => (.next { s with pc := s.pc + f.len, fresh := s.fresh + 1, pstate := p } : Result))
    (s.pstate.itAdvanced_with_it (Config.freeIT s.fresh))

/-- Settles O31: the branch is taken, or skipped where its condition fails, and either way leaves a free IT state. -/
theorem branchInsideITBlockOutcomes : Obligations.BranchInsideITBlockOutcomes := by
  intro rm s ht hin hlast hm
  have hexec : exec (.addT2 1 rm 7) s =
      unpredictable .t2BranchInIT 2 (branchFreeITIfPasses (formT2 1 rm 7)) (branchFreeIT (formT2 1 rm 7) true) s :=
    execAddT2_of_branchInIT (dn := 1) (rdn := 7) rfl hm hin hlast
  have htaken := branchFreeIT_taken (s := (takeFree s).2) ht (formT2 1 rm 7)
  have hskipped := branchFreeIT_skipped (formT2 1 rm 7) (takeFree s).2
  rw [hexec, ← readReg_pc_of_t32 ht]
  rcases unpredictable_outcomes ht (.inr hin) .t2BranchInIT 2 (branchFreeITIfPasses (formT2 1 rm 7))
    (branchFreeIT (formT2 1 rm 7) true) with h | h | h
  · exact .inl h
  · rw [branchFreeITIfPasses_of_inIT (s := (takeFree s).2) hin, takeFree_pstate] at h
    cases hc : conditionHolds (s.pstate.it.extractLsb' 4 4) s.pstate
    · rw [hc] at h
      exact .inr (.inr ⟨⟨hin, hc⟩, h.trans hskipped⟩)
    · rw [hc] at h
      exact .inr (.inl (h.trans htaken))
  · exact .inr (.inl (h.trans htaken))

/-! ## Encoding T3 -/

theorem runT3_zero (f : AddForm) (s : State) : runT3 0 f s = checkedT3 f s := if_neg (by decide)

theorem runT3_one (f : AddForm) (s : State) : runT3 1 f s = sbzT3 f s := if_pos rfl

/-- Settles O34: T3 to the PC executes by a branch to a free address, or discards its result, a NOP. -/
theorem addT3ToPcOutcomes : Obligations.AddT3ToPcOutcomes := by
  intro rrx rn rm imm3 imm2 stype s ht hit
  have hexec : exec (t3 false rrx 0 rn imm3 15#4 imm2 stype rm) s =
      unpredictable .t3DestPc 4 (conditionalT32 4 branchUnknown) (fun t => .next (advance 4 t)) s := by
    rw [exec_t3, runT3_zero, checkedT3, if_pos ⟨rfl, Bool.false_ne_true⟩]
    rfl
  rw [hexec]
  rcases unpredictable_outcomes ht hit .t3DestPc 4 (conditionalT32 4 branchUnknown) (fun t => .next (advance 4 t))
    with h | h | h
  · exact .inl h
  · rw [h]
    exact (conditionalT32_outcomes ht hit .t3DestPc 4 branchUnknown).imp_right fun hb =>
      hb.2.trans (branchUnknown_of_t32 (s := (takeFree s).2) ht hit)
  · rw [h]
    exact .inl (undefinedNopOrStop_advance ht hit .t3DestPc 4)

/-- The shift of a T3 word, for any value in place of its second source. -/
theorem shift_formT3 (setflags rrx : Bool) (rn : RegNum) (imm3 : BitVec 3) (rd : RegNum) (imm2 stype : BitVec 2)
    (rm : RegNum) (v : Word) (c : Bool) :
    shift v
        (formT3 setflags rn (if rrx then 0 else imm3) rd (if rrx then 0 else imm2) (if rrx then 3 else stype) rm).shiftT
        (formT3 setflags rn (if rrx then 0 else imm3) rd (if rrx then 0 else imm2) (if rrx then 3 else stype) rm).shiftN
        c =
      operand rrx stype (amountField imm3 imm2) v c := by
  cases rrx
  · exact (immediateShiftOperand _ _ _ _).trans (operand_false ..).symm
  · simp only [if_true]
    exact (immediateShiftOperand 3 (amountField 0 0) v c).trans
      (operand_true stype (amountField imm3 imm2) v c).symm

/-- The PC as a source, the first of the two if both (R85). -/
theorem checkedT3_of_pcSource {f : AddForm} (hd : f.d ≠ 15#4) (hpc : f.n = 15#4 ∨ f.m = 15#4) (s : State) :
    checkedT3 f s =
      unpredictable (if f.n = 15#4 then .t3FirstPc else .t3SecondPc) f.len (conditionalT32 f.len (operateFreePc f))
        (conditionalT32 f.len (operateFreePc f)) s := by
  rw [checkedT3, if_neg fun h => hd h.1]
  by_cases hn : f.n = 15#4
  · rw [if_pos hn, if_pos hn]
  · rw [if_neg hn, if_neg hn, if_pos (hpc.resolve_left hn)]

/-- The sum with a free value for each source that is the PC (U6, U7). -/
theorem operateFreePc_writes {s : State} (ht : s.pstate.t = true)
    (hit : s.pstate.it = 0 ∨ inITBlock s.pstate.it = true) {f : AddForm} (hd : f.d ≠ 15#4)
    (hpc : f.n = 15#4 ∨ f.m = 15#4) :
    operateFreePc f s =
      (let x := if f.n = 15#4 then Config.freeWord s.fresh else s.readReg f.n
       let value := if f.m = 15#4 then Config.freeWord (if f.n = 15#4 then s.fresh + 1 else s.fresh) else s.readReg f.m
       let y := shift value f.shiftT f.shiftN s.pstate.c
       let k := if f.n = 15#4 ∧ f.m = 15#4 then s.fresh + 2 else s.fresh + 1
       .next (written { s with fresh := k } f.d (x + y) f.len
         { (if f.setflags then withSumFlags x y s.pstate else s.pstate) with it := nextIT s.pstate.it })) := by
  have sum (k : Nat) (x y : Word) := finish_of_ne_pc (s := { s with fresh := k }) ht hit hd x y
  by_cases hn : f.n = 15#4
  · by_cases hm : f.m = 15#4
    · simp only [operateFreePc, readFreePc, takeFree, hn, hm, and_self, if_true]
      exact sum ..
    · simp only [operateFreePc, readFreePc, takeFree, hn, hm, and_false, if_true, if_false]
      exact sum ..
  · simp only [operateFreePc, readFreePc, takeFree, hn, hpc.resolve_left hn, false_and, if_true, if_false]
    exact sum ..

/-- Settles O35: T3 with the PC as a source executes by adding free values for it. -/
theorem t3PcSourceOutcomes : Obligations.T3PcSourceOutcomes := by
  intro sbit rrx rn rd rm imm3 imm2 stype s ht hit hd hpc
  dsimp only
  rw [exec_t3, runT3_zero, checkedT3_of_pcSource hd hpc, ← shift_formT3 sbit rrx rn imm3 rd imm2 stype rm]
  exact (unpredictable_conditionalT32_outcomes ht hit _ _ _).imp_right fun h =>
    h.trans (operateFreePc_writes (s := (takeFree s).2) ht hit hd hpc)

/-- U10's free destination: the sum's flags, and a free value for a destination that is not the PC. -/
theorem operateFreeDest_eq {s : State} (ht : s.pstate.t = true) (hit : s.pstate.it = 0 ∨ inITBlock s.pstate.it = true)
    (f : AddForm) :
    operateFreeDest f s =
      .next (written (takeFree s).2 f.d (takeFree s).1 f.len
        { f.flagged s s.pstate with it := nextIT s.pstate.it }) := by
  have hflags : (addValues f (s.readReg f.n) (s.readReg f.m) s).2 =
      (addWithCarry (f.firstSource s) (f.secondSource s) false).2 := rfl
  simp only [operateFreeDest, writeResult_eq, hflags, withNzcv_addWithCarry, takeFree_pstate,
    Pstate.itAdvanced_of_t32 ht hit, AddForm.flagged]
  cases f.setflags <;> rfl

/-- With its (0) bit set a word does what it does with the bit 0, or has a free destination (U10). -/
theorem sbzT3_outcomes {s : State} (ht : s.pstate.t = true) (hit : s.pstate.it = 0 ∨ inITBlock s.pstate.it = true)
    (f : AddForm) :
    undefinedNopOrStop .t3Sbz f.len s (sbzT3 f s) ∨ sbzT3 f s = checkedT3 f (takeFree s).2 ∨
      (f.d ≠ 15#4 ∧ f.n ≠ 15#4 ∧ f.m ≠ 15#4 ∧ passesT32 s.pstate ∧
        sbzT3 f s = .next (written (takeFree (takeFree s).2).2 f.d (takeFree (takeFree s).2).1 f.len
          { f.flagged s s.pstate with it := nextIT s.pstate.it })) := by
  rcases unpredictable_outcomes ht hit .t3Sbz f.len (checkedT3 f)
    (if f.d = 15#4 ∨ f.n = 15#4 ∨ f.m = 15#4 then checkedT3 f else conditionalT32 f.len (operateFreeDest f))
    with h | h | h
  · exact .inl h
  · exact .inr (.inl h)
  · by_cases hpc : f.d = 15#4 ∨ f.n = 15#4 ∨ f.m = 15#4
    · rw [if_pos hpc] at h
      exact .inr (.inl ((congrArg (unpredictable .t3Sbz f.len (checkedT3 f) · s) (if_pos hpc)).trans h))
    · obtain ⟨hd, hn, hm⟩ : f.d ≠ 15#4 ∧ f.n ≠ 15#4 ∧ f.m ≠ 15#4 := by simpa using hpc
      rw [sbzT3, h, if_neg hpc]
      exact (conditionalT32_outcomes ht hit .t3Sbz f.len (operateFreeDest f)).imp_right fun ⟨hc, hb⟩ =>
        .inr ⟨hd, hn, hm, hc, hb.trans (operateFreeDest_eq (s := (takeFree s).2) ht hit f)⟩

/-- Settles O36: U10's outcomes, of the form that a word decodes to. -/
theorem t3ShouldBeZeroOutcomes : Obligations.T3ShouldBeZeroOutcomes := by
  intro sbit rrx rn rd rm imm3 imm2 stype s ht hit
  dsimp only
  rw [exec_t3, exec_t3, runT3_zero, runT3_one, ← secondSource_formT3 sbit rrx rn imm3 rd imm2 stype rm]
  exact sbzT3_outcomes ht hit _

end Sys2Proof.Machine
end

section
/-! PROOFS. Whole-machine rules: T1's sources commute, every instruction completes or is refused by name, and User mode
is left only through a vector (40_add_adds_register.md R117, R118; 60_exceptions.md R199, R202; logs 10 to 13, 16, 19,
20, 32). -/

namespace Sys2Proof.Machine
open Sys2Proof Sys2Proof.Claims

/-! ## Exchanged sources -/

/-- R118: the sum and its flags do not depend on the order of the two values. -/
theorem addWithCarry_comm (x y : Word) (c : Bool) : addWithCarry x y c = addWithCarry y x c := by
  unfold addWithCarry
  rw [Nat.add_comm x.toNat, Int.add_comm x.toInt]

/-- T1 shifts neither source, so its Operation is symmetric in them. -/
theorem runT1_formT1_comm (setflags : Bool) (rm rn rd : BitVec 3) (s : State) :
    runT1 (formT1 setflags rm rn rd) s = runT1 (formT1 setflags rn rm rd) s := by
  have hop : operate (formT1 setflags rm rn rd) = operate (formT1 setflags rn rm rd) := funext fun t => by
    rw [operate_eq, addWithCarry_comm]
    rfl
  rw [runT1, hop]
  rfl

/-- Settles O27: both T1 rows are that Operation. -/
theorem t1SourcesCommute : Obligations.T1SourcesCommute := fun rm rn rd s =>
  ⟨runT1_formT1_comm true rm rn rd s, runT1_formT1_comm false rm rn rd s⟩

/-! ## Completion -/

theorem exists_next_finish (f : AddForm) (r : Word × Nzcv) (s : State) : ∃ t, finish f r s = .next t := by
  unfold finish aluExceptionReturn
  split_ifs
  · exact ⟨_, rfl⟩
  · split
    · exact ⟨_, rfl⟩
    · split <;> exact ⟨_, rfl⟩
  · exact ⟨_, rfl⟩
  · exact ⟨_, rfl⟩

theorem exists_next_guarded (passed : Bool) (len : Word) {body : State → Result} {s : State}
    (h : ∃ t, body s = .next t) : ∃ t, guarded passed len body s = .next t := by
  cases passed
  · exact ⟨_, rfl⟩
  · exact h

theorem exists_next_exec_of_a32 {i : Instr} (hi : i.isT32 = false) (s : State) : ∃ t, exec i s = .next t := by
  cases i with
  | addRrxA1 | addShiftA1 | addsRrxA1 | addsShiftA1 => exact exists_next_guarded _ _ (exists_next_finish ..)
  | addsT1 | addT1 | addT2 | addRrxT3 | addShiftT3 | addsRrxT3 | addsShiftT3 => cases hi

/-- An instruction that is not UNPREDICTABLE completes unless its condition check finds a malformed IT state. -/
theorem exists_next_exec_of_predictable {i : Instr} {s : State} (hu : isUnpredictable s.pstate.it i = false)
    (hit : i.isT32 = true → s.pstate.it = 0 ∨ inITBlock s.pstate.it = true) : ∃ t, exec i s = .next t := by
  cases hi : i.isT32
  · exact exists_next_exec_of_a32 hi s
  · obtain ⟨f, -, hf⟩ := exec_of_predictable hi hu
    rw [hf, conditionalT32_of_legal (hit hi)]
    exact exists_next_guarded _ _ (exists_next_finish ..)

/-- The outcomes of an instruction: a next state, the stop of a malformed IT state, or that of an UNPREDICTABLE word. -/
inductive Answers : Result → Prop where
  | next (t : State) : Answers (.next t)
  | malformedIT : Answers (.refused .malformedIT)
  | unpredictable (case : Config.UnpredCase) : Answers (.refused (.unpredictable case))

theorem answers_of_exists_next {r : Result} (h : ∃ t, r = .next t) : Answers r := by
  obtain ⟨t, rfl⟩ := h
  exact .next t

theorem answers_withCondition (cond : Option (BitVec 4)) (s : State) {k : Bool → Result} (h : ∀ b, Answers (k b)) :
    Answers (withCondition cond s k) := by
  cases cond with
  | none => exact .malformedIT
  | some c => exact h _

theorem answers_conditionalT32 (len : Word) {body : State → Result} {s : State} (h : ∃ t, body s = .next t) :
    Answers (conditionalT32 len body s) :=
  answers_withCondition _ s fun passed => answers_of_exists_next (exists_next_guarded passed len h)

theorem answers_unpredictable (case : Config.UnpredCase) (len : Word) {execute variant : State → Result}
    (he : ∀ s, Answers (execute s)) (hv : ∀ s, Answers (variant s)) (s : State) :
    Answers (unpredictable case len execute variant s) := by
  unfold unpredictable
  split_ifs
  · exact .unpredictable case
  · split
    · exact .next _
    · exact .next _
    · exact he _
    · exact hv _
    · exact .unpredictable case

theorem answers_branchUnknown (len : Word) (s : State) : Answers (conditionalT32 len branchUnknown s) :=
  answers_conditionalT32 len ⟨_, rfl⟩

theorem execAddT2_answers (dn : BitVec 1) (rm : RegNum) (rdn : BitVec 3) (s : State) :
    Answers (execAddT2 dn rm rdn s) := by
  unfold execAddT2
  dsimp only
  split_ifs
  · exact answers_unpredictable _ _ (answers_branchUnknown _) (answers_branchUnknown _) s
  · exact answers_unpredictable _ _ (fun t => answers_withCondition _ t fun _ => .next _) (fun _ => .next _) s
  · exact answers_conditionalT32 _ (exists_next_finish ..)

theorem checkedT3_answers (f : AddForm) (s : State) : Answers (checkedT3 f s) := by
  have freePc (t : State) : Answers (conditionalT32 f.len (operateFreePc f) t) :=
    answers_conditionalT32 _ (exists_next_finish ..)
  unfold checkedT3
  split_ifs
  · exact answers_unpredictable _ _ (answers_branchUnknown _) (fun _ => .next _) s
  · exact answers_unpredictable _ _ freePc freePc s
  · exact answers_unpredictable _ _ freePc freePc s
  · exact answers_conditionalT32 _ (exists_next_finish ..)

theorem runT3_answers (sbz : BitVec 1) (f : AddForm) (s : State) : Answers (runT3 sbz f s) := by
  have freeDest (t : State) : Answers (conditionalT32 f.len (operateFreeDest f) t) :=
    answers_conditionalT32 _ ⟨_, rfl⟩
  unfold runT3 sbzT3
  split_ifs
  · exact answers_unpredictable _ _ (checkedT3_answers f) (checkedT3_answers f) s
  · exact answers_unpredictable _ _ (checkedT3_answers f) freeDest s
  · exact checkedT3_answers f s

theorem exec_answers (i : Instr) (s : State) : Answers (exec i s) := by
  cases i with
  | addRrxA1 | addShiftA1 | addsRrxA1 | addsShiftA1 => exact answers_of_exists_next (exists_next_exec_of_a32 rfl s)
  | addsT1 | addT1 => exact answers_conditionalT32 _ (exists_next_finish ..)
  | addT2 => exact execAddT2_answers _ _ _ s
  | addRrxT3 | addShiftT3 | addsRrxT3 | addsShiftT3 => exact runT3_answers _ _ s

/-- Where an instruction that is not UNPREDICTABLE is refused, it is for the IT state. -/
theorem refused_of_predictable {i : Instr} {s : State} {r : Refusal} (hu : isUnpredictable s.pstate.it i = false)
    (h : exec i s = .refused r) : r = .malformedIT := by
  by_cases hm : malformedIT i s.pstate
  · obtain ⟨hi, h0, hin⟩ := hm
    rw [(malformedITRefused i s hi h0 hin).1 hu] at h
    cases h
    rfl
  · have hit : i.isT32 = true → s.pstate.it = 0 ∨ inITBlock s.pstate.it = true := fun hi => by
      simpa [malformedIT, hi, imp_iff_not_or] using hm
    obtain ⟨t, ht⟩ := exists_next_exec_of_predictable hu hit
    rw [ht] at h
    cases h

/-- Settles O50: no outcome is a fault, and one that is not a next state is a stop of the word or of the IT state. -/
theorem instructionsComplete : Obligations.InstructionsComplete := by
  intro i s
  have ha := exec_answers i s
  refine ⟨fun f hf => ?_, exists_next_exec_of_predictable, fun r hr => ?_, fun hfe hwf hd => ?_⟩
  · rw [hf] at ha
    cases ha
  · cases hu : isUnpredictable s.pstate.it i
    · exact .inl (refused_of_predictable hu hr)
    · rw [hr] at ha
      cases ha with
      | malformedIT => exact .inl rfl
      | unpredictable case => exact .inr ⟨rfl, case, rfl⟩
  · obtain ⟨t, ht, -⟩ := step_completes hfe hwf hd
    exact ⟨t, ht⟩

/-! ## Leaving User mode -/

@[simp] theorem writeResult_mode (f : AddForm) (r : Word) (k : Nzcv) (s : State) :
    (writeResult f r k s).pstate.mode = s.pstate.mode := by
  rw [writeResult_pstate]
  split <;> simp

@[simp] theorem aluWritePC_mode (a : Word) (s : State) : (aluWritePC a s).pstate.mode = s.pstate.mode := by
  obtain ⟨t, h, -⟩ := aluWritePC_pstate a s
  rw [h]

@[simp] theorem branchTo_mode (a : Word) (s : State) : (branchTo a s).pstate.mode = s.pstate.mode :=
  (aluWritePC_mode a _).trans (Pstate.itAdvanced_mode _)

/-- User mode has no SPSR to return with. -/
theorem currentSpsr_of_user {s : State} (hs : s.pstate.mode = .user) : s.currentSpsr = none :=
  s.currentSpsr_eq_none_iff.mpr (by simp [hs])

/-- From User mode an instruction stays there or takes the Undefined Instruction exception. -/
theorem Effect.staysInUser {i : Instr} {s t : State} (hs : s.pstate.mode = .user) (h : Effect i s t) :
    t.pstate.mode = .user ∨ ∃ k, t = takeUndefined { s with fresh := k } := by
  cases h with
  | advances | writes | branches | branchesFreeIT | advancesFreeIT => exact .inl (by simpa using hs)
  | returns fresh a spsr hd hset hm hspsr =>
    rw [currentSpsr_of_user hs] at hspsr
    cases hspsr
  | undefined fresh => exact .inr ⟨fresh, rfl⟩

/-- Where no stop is decided it takes no exception. -/
theorem StepEffect.staysInUser {i : Instr} {s t : State} (hs : s.pstate.mode = .user) (h : StepEffect i s t) :
    t.pstate.mode = .user := by
  cases h with
  | advances | writes | branches => simpa using hs
  | returns a spsr hd hset hm hspsr =>
    rw [currentSpsr_of_user hs] at hspsr
    cases hspsr

/-- Where an exception from User mode enters, and what it saves there (R194, R199; log 13). -/
theorem takeException_of_user {s : State} (hs : s.pstate.mode = .user) (ec : BitVec 6) :
    ((takeException ec s).pstate.mode = .undef ∧
        (takeException ec s).pc = (if s.sctlrV then 0xFFFF0000 else s.vbar) + 4 ∧
        (takeException ec s).pstate.i = true ∧ (takeException ec s).spsrUnd = s.pstate.image) ∨
      ((takeException ec s).pstate.mode = .hyp ∧ (takeException ec s).pc = s.hvbar + 0x14 ∧ s.hcrTGE = true ∧
        (takeException ec s).elrHyp = s.pc ∧ (takeException ec s).spsrHyp = s.pstate.image) := by
  rcases takeException_cases ec s with ⟨hm, -⟩ | ⟨-, hr, h⟩ | ⟨-, -, h⟩
  · rw [hs] at hm
    cases hm
  · obtain ⟨-, -, -, htge⟩ := s.routedToHyp_iff.mp hr
    rw [h]
    exact .inr ⟨rfl, rfl, htge, rfl, rfl⟩
  · rw [h]
    exact .inl ⟨rfl, rfl, rfl, rfl⟩

/-- Settles O56: by the effects of a step; the machine's own step takes no exception but a pending one. -/
theorem userModeEntersOnlyVectors : Obligations.UserModeEntersOnlyVectors := by
  intro s t hs h
  refine ⟨fun hil hstep => ?_, ?_⟩
  · rcases step_next hstep with ⟨hil', -⟩ | ⟨i, hf, -, -⟩
    · rw [hil] at hil'
      cases hil'
    · exact (step_effect hf (frontEnd_wellFormed hf) hstep).staysInUser hs
  · rcases permittedStep_next (h.elim permittedStep_of_step id) with ⟨-, rfl⟩ | ⟨i, -, h⟩
    · exact .inr (takeException_of_user (s := { s with fresh := s.fresh + 1 }) hs _)
    · rcases (exec_effect h).staysInUser hs with hu | ⟨k, rfl⟩
      · exact .inl hu
      · exact .inr (takeException_of_user (s := { s with fresh := k }) hs 0)

end Sys2Proof.Machine
end
